-- ==== Sys2Proof/Word.lean ====
section
/-!
DEFINITION. The word types of the Sedrin SC4 (00_scope.md, Conventions).
-/
namespace Sys2Proof

/-- A word is 32 bits (00_scope.md, "Words, addresses and bursts"). -/
abbrev Word := BitVec 32

/-- A half-word: a character code, a tag, a check value, a pen id. -/
abbrev Half := BitVec 16

/-- A 28-bit byte address. -/
abbrev Addr := BitVec 28

/-- A field number: 32 bits, compared by wrap arithmetic (00_scope.md, "Fields and field arithmetic"). -/
abbrev Field := BitVec 32

/-- A counter: a 32-bit number that wraps (00_scope.md, "Numbers and quantities"). -/
abbrev Counter := BitVec 32

end Sys2Proof
end

