-- ==== Sys2Proof/Syntax.lean ====
section
/-!
DEFINITION. The commands of the block: one constructor of `Instr` for each row of spec/opcode_table.json,
and the types of their operands.
-/
namespace Sys2Proof

/-- The four lanes (00_scope.md, "Lanes, slots and names"). -/
inductive LaneId where
  | l0 | l1 | l2 | l3
  deriving DecidableEq, Repr

/-- The two pen slots of a lane. -/
inductive SlotId where
  | a | b
  deriving DecidableEq, Repr

/-- The two upstream ports (R16). -/
inductive Port where
  | h | v
  deriving DecidableEq, Repr

/-- The straps sampled at a reset (R19, R28): true is high. -/
structure Straps where
  boot1 : Bool
  boot0 : Bool
  tie : Bool
  deriving DecidableEq, Repr

/-- The levels a line event samples through the guard filters (R3, R13): true is HIGH. -/
structure Levels where
  va0 : Bool
  va1 : Bool
  va2 : Bool
  va3 : Bool
  ovr : Bool
  deriving DecidableEq, Repr

/-- What an access asks for: a read of a number of words, or a write that carries its data (R16). -/
inductive Transfer where
  | read (count : Nat)
  | write (data : List Word)
  deriving DecidableEq, Repr

/-- The number of words of the burst. -/
def Transfer.count : Transfer → Nat
  | .read n => n
  | .write data => data.length

/-- An access: a burst of words at incrementing word-aligned addresses. -/
structure Access where
  addr : Addr
  xfer : Transfer
  deriving DecidableEq, Repr

/-- Memory's answer to the access on Port M (R26). `done` carries the read data of the words memory
was asked for (nothing for a write); `uncorrectable` carries the words memory could still supply. -/
inductive MemAnswer where
  | done (data : List Word)
  | uncorrectable (data : List (Option Word))
  deriving DecidableEq, Repr

/-- The fields of an ingest record that the host writes (Table 12-1), the kind apart. `check` is the
check value the record carries, right or wrong. `text` is words 4 to 13. -/
structure IngestFields where
  newline : Bool
  speaker : Bool
  gap : Bool
  length : BitVec 5
  argument : BitVec 4
  pen : Half
  seq : Half
  argWord : Word
  text : List Word
  check : Half
  deriving DecidableEq, Repr

/-- The parameters of a LANE-SET (Table 12-2), at the widths of their fields. -/
structure LaneSetFields where
  lane : BitVec 8
  d : BitVec 10
  lmax : BitVec 10
  initial : BitVec 10
  s : BitVec 4
  g : BitVec 8
  q : BitVec 12
  takeWindow : BitVec 10
  c : BitVec 4
  r : BitVec 3
  w : BitVec 6
  stale : BitVec 10
  corrMarker : Word
  spkMarker : Word
  check : Half
  deriving DecidableEq, Repr

/-- The commands of the block: the rows of spec/opcode_table.json, in the table's order.
The table gives no operands; each constructor has those its rule needs (log 6, log 26). -/
inductive Instr where
  /-- POWER_ON_RESET (R32). -/
  | powerOnReset (straps : Straps)
  /-- RESET_PIN (R32). -/
  | resetPin (straps : Straps)
  /-- REAL_FP (R4): `fo` is the level of FO, high for an odd field. -/
  | realFp (fo : Bool) (levels : Levels)
  /-- REAL_LP (R5). -/
  | realLp (levels : Levels)
  /-- SYNTHESISED_LINE (R9). -/
  | synthesisedLine (levels : Levels)
  /-- LP_ABSENCE (R9). -/
  | lpAbsence (levels : Levels)
  /-- UPSTREAM_ACCESS (R16). -/
  | upstreamAccess (port : Port) (access : Access)
  /-- AIR_WORD0_READ (R22): a Port V burst of `count` words from word 0 of the lane's AIR window. -/
  | airWord0Read (lane : LaneId) (count : Nat)
  /-- CONSUME_INDEX_WRITE (R174). -/
  | consumeIndexWrite (index : Word)
  /-- START (R168): a Port H burst that writes 1 to the start word and `rest` to the words after it. -/
  | start (rest : List Word)
  /-- UPSTREAM_ACCESS_END (R24). -/
  | upstreamAccessEnd (answer : MemAnswer)
  /-- RESPONSE_TIMER_EXPIRY (R26). -/
  | responseTimerExpiry
  /-- LATE_MEMORY_ANSWER (R26). -/
  | lateMemoryAnswer (answer : MemAnswer)
  /-- DISPOSITION_WRITEBACK_END (R40): memory answers that the write is done. -/
  | dispositionWritebackEnd
  /-- TOKEN (R66). -/
  | token (lane : LaneId) (slot : Nat) (r : IngestFields)
  /-- CORRECT (R106). -/
  | correct (lane : LaneId) (slot : Nat) (r : IngestFields)
  /-- OFFER (R59). -/
  | offer (lane : LaneId) (slot : Nat) (r : IngestFields)
  /-- TAKE (R60). -/
  | take (lane : LaneId) (slot : Nat) (r : IngestFields)
  /-- KEEPALIVE (R55). -/
  | keepalive (lane : LaneId) (slot : Nat) (r : IngestFields)
  /-- SCRIPT_FETCH_BURST_END (R125). -/
  | scriptFetchBurstEnd (answer : MemAnswer)
  /-- LANE_SET_ENABLE (R88). -/
  | laneSetEnable (slot : Nat) (p : LaneSetFields)
  /-- LANE_SET_DISABLE (R89). -/
  | laneSetDisable (slot : Nat) (p : LaneSetFields)
  /-- PEN_SET (R51): `penSlot` true is B, `floor` true is role FLOOR. -/
  | penSet (slot : Nat) (lane : BitVec 8) (penSlot : Bool) (floor : Bool) (pen : Half) (check : Half)
  /-- CUE (R121). -/
  | cue (slot : Nat) (lane : BitVec 8) (first : BitVec 12) (count : BitVec 13) (check : Half)
  /-- UNCUE (R122). -/
  | uncue (slot : Nat) (lane : BitVec 8) (check : Half)
  /-- LINK (R162): mode 0 NONE, 1 SOFT, 2 HARD; 3 is out of range. -/
  | link (slot : Nat) (lane : BitVec 8) (mode : BitVec 2) (check : Half)
  /-- OVERRIDE (R156): `on` is the value the flag takes. -/
  | override (slot : Nat) (on : Bool) (check : Half)
  /-- FLUSH (R98). -/
  | flush (slot : Nat) (lane : BitVec 8) (check : Half)
  /-- RESTORE (R56): `penSlot` true is B. -/
  | restore (slot : Nat) (lane : BitVec 8) (penSlot : Bool) (check : Half)
  /-- SNAPSHOT (R171). -/
  | snapshot (slot : Nat) (lane : BitVec 8) (check : Half)
  /-- STOP (R169). -/
  | stop (slot : Nat) (check : Half)
  /-- REPORT_ACCESS_END (R173): memory answers that the write is done. -/
  | reportAccessEnd
  /-- SETUP_RESULT_WRITE_END (R31): memory answers that the write is done. -/
  | setupResultWriteEnd
  deriving DecidableEq, Repr

end Sys2Proof
end

