-- ==== Sys2Proof/WellFormed.lean ====
section
/-!
DEFINITION. Which operands make a command of the spec at all. An ill-formed command names no access
(00_scope.md: a burst is 1 to 16 words at word-aligned 28-bit addresses) or no record of the formats
(Table 12-1); every meaning refuses it as `illFormed` (log 11).
-/
namespace Sys2Proof

/-- A burst of 1 to 16 words (00_scope.md). -/
def burstOk (n : Nat) : Bool := 1 ≤ n && n ≤ 16

/-- The burst begins at a word-aligned address and does not run past the top of the 28-bit space. -/
def Access.wf (a : Access) : Bool :=
  burstOk a.xfer.count && a.addr.toNat % 4 == 0 && a.addr.toNat + 4 * a.xfer.count ≤ 2 ^ 28

/-- A record has ten text words (words 4 to 13, Table 12-1). -/
def IngestFields.wf (r : IngestFields) : Bool := r.text.length == 10

/-- An ingest ring has at most 1024 slots (R33). -/
def ingestSlotOk (slot : Nat) : Bool := slot < 1024

/-- The command ring has at most 256 slots (R33). -/
def commandSlotOk (slot : Nat) : Bool := slot < 256

/-- The command's operands make a command of the spec. -/
def Instr.wf : Instr → Bool
  | .powerOnReset _ => true
  | .resetPin _ => true
  | .realFp _ _ => true
  | .realLp _ => true
  | .synthesisedLine _ => true
  | .lpAbsence _ => true
  | .upstreamAccess _ access => access.wf
  | .airWord0Read _ count => burstOk count
  | .consumeIndexWrite _ => true
  | .start rest => burstOk (rest.length + 1)
  | .upstreamAccessEnd _ => true
  | .responseTimerExpiry => true
  | .lateMemoryAnswer _ => true
  | .dispositionWritebackEnd => true
  | .token _ slot r => ingestSlotOk slot && r.wf
  | .correct _ slot r => ingestSlotOk slot && r.wf
  | .offer _ slot r => ingestSlotOk slot && r.wf
  | .take _ slot r => ingestSlotOk slot && r.wf
  | .keepalive _ slot r => ingestSlotOk slot && r.wf
  | .scriptFetchBurstEnd _ => true
  | .laneSetEnable slot _ => commandSlotOk slot
  | .laneSetDisable slot _ => commandSlotOk slot
  | .penSet slot _ _ _ _ _ => commandSlotOk slot
  | .cue slot _ _ _ _ => commandSlotOk slot
  | .uncue slot _ _ => commandSlotOk slot
  | .link slot _ _ _ => commandSlotOk slot
  | .override slot _ _ => commandSlotOk slot
  | .flush slot _ _ => commandSlotOk slot
  | .restore slot _ _ _ => commandSlotOk slot
  | .snapshot slot _ _ => commandSlotOk slot
  | .stop slot _ => commandSlotOk slot
  | .reportAccessEnd => true
  | .setupResultWriteEnd => true

end Sys2Proof
end

