-- ==== Sys2Proof/Config.lean ====
section
/-!
DEFINITION. What the part fixes (capacities, codes that are no state) and the free values.
-/
namespace Sys2Proof.Config

/-- FREE VALUE (log 4). The order in which blocks take one event together, where the spec says
"either order" (R70, R95, R156, R158, R159, R172). Argument: the model's counter `freeIndex`. The number is read
as the code of a permutation by `permute`; every permutation has a code. -/
opaque freeOrder : Nat → Nat

/-- FREE VALUE (log 4). Which of two reports that different blocks hand over in one event of a lane is
staged first (R172). Argument: the model's counter `freeIndex`. -/
opaque freeSwap : Nat → Bool

/-- Hold queue capacity (R92). -/
def holdCap : Nat := 128
/-- Emission queue capacity (R140). -/
def emissionCap : Nat := 48
/-- Standby list capacity (R67). -/
def standbyCap : Nat := 32
/-- Recent list capacity (R104). -/
def recentCap : Nat := 8
/-- Onset list capacity (R74). -/
def onsetCap : Nat := 8
/-- Staging queue capacity (R172). -/
def stagingCap : Nat := 8
/-- Staged reports at which the report writer's entry is urgent (R29). -/
def stagingUrgent : Nat := 6
/-- Unconsumed records at or below which a refill is requested, and the records of one fetch (R124). -/
def fetchRecords : Nat := 8
/-- Keepalive run that recovers a barred pen (R55). -/
def recoveryRun : Nat := 64
/-- Revision number in the setup result word (section 12.4). -/
def revision : Word := 1#32
/-- Memory response limit from a reset to the first accepted START, in microseconds (R26). -/
def resetMemLimit : Nat := 255

end Sys2Proof.Config
end

