-- ==== Sys2Proof/Machine/State.lean ====
section
/-!
DEFINITION. The state of the block as plain data, its reasons to stop, and the state after reset.
INVENTORY.md, "State", lists every field with its rule and its reset value.
-/
namespace Sys2Proof.Machine

/-- Why the machine stops with a fault: never. No rule of the spec stops the part; every error it
describes is a response, a disposition, a report or a state of its own. Nobody raises one; safe. -/
inductive Fault where
  deriving DecidableEq, Repr

/-- Why a command has no meaning. -/
inductive Refusal where
  /-- Raised by Dispatch for a row whose meaning is not written yet. Safe. -/
  | notModelled (mnemonic : String)
  /-- Raised by a meaning whose operands are no command of the spec (log 11). Safe: nothing is
  claimed of it. -/
  | illFormed
  deriving DecidableEq, Repr

/-! ## Collections of fixed size -/

/-- One value for each lane. -/
structure Quad (α : Type) where
  l0 : α
  l1 : α
  l2 : α
  l3 : α
  deriving DecidableEq, Repr

/-- The value of lane `l`. -/
def Quad.get {α : Type} (q : Quad α) : LaneId → α
  | .l0 => q.l0
  | .l1 => q.l1
  | .l2 => q.l2
  | .l3 => q.l3

/-- `q` with the value of lane `l` replaced. -/
def Quad.set {α : Type} (q : Quad α) (l : LaneId) (x : α) : Quad α :=
  match l with
  | .l0 => { q with l0 := x }
  | .l1 => { q with l1 := x }
  | .l2 => { q with l2 := x }
  | .l3 => { q with l3 := x }

/-- The same value for every lane. -/
def Quad.all {α : Type} (x : α) : Quad α := ⟨x, x, x, x⟩

/-- One value for each pen slot. -/
structure Pair (α : Type) where
  a : α
  b : α
  deriving DecidableEq, Repr

/-- The value of pen slot `k`. -/
def Pair.get {α : Type} (p : Pair α) : SlotId → α
  | .a => p.a
  | .b => p.b

/-- `p` with the value of pen slot `k` replaced. -/
def Pair.set {α : Type} (p : Pair α) (k : SlotId) (x : α) : Pair α :=
  match k with
  | .a => { p with a := x }
  | .b => { p with b := x }

/-! ## Field Timer (chapter 1) -/

/-- Parity of a field (section 1.1). -/
inductive Parity where
  | odd | even
  deriving DecidableEq, Repr

/-- Origin of a field (section 1.3). -/
inductive Origin where
  | real | synthesised
  deriving DecidableEq, Repr

/-- Reference states (section 1.5). -/
inductive RefState where
  | locked | freewheel | lineLost
  deriving DecidableEq, Repr

/-- Timing values of Table 1-1. -/
structure Timing where
  eOdd : Nat
  eEven : Nat
  k : Nat
  period : Nat
  vaGuard : Nat
  ovrGuard : Nat
  deriving DecidableEq, Repr

/-- The field in progress: its line count N (1 or more), parity, origin and compose-raised mark (R3). -/
structure CurrentField where
  n : Nat
  parity : Parity
  origin : Origin
  composeRaised : Bool
  deriving DecidableEq, Repr

/-- A guard filter: taken level (true is HIGH) and run count (section 1.7). -/
structure Guard where
  taken : Bool
  run : Nat
  deriving DecidableEq, Repr

/-- The Field Timer. `timing` is absent while unloaded (R1); `field` is absent while N is 0 (R3). -/
structure FieldTimer where
  timing : Option Timing
  f : Field
  field : Option CurrentField
  refState : RefState
  absenceRunning : Bool
  lineTimerRunning : Bool
  irregular : Counter
  va : Quad Guard
  ovr : Guard
  deriving DecidableEq, Repr

/-! ## Reports (chapters 11 and 12) -/

/-- An item of a report's detail, by its class (R177). -/
inductive Item where
  | whole (w : Word)
  | half (h : Half)
  | code (c : BitVec 8)
  deriving DecidableEq, Repr

/-- Report causes, in the order of Table 11-4. -/
inductive Cause where
  | stopped | lostRecord | slotReused | penHealth | floorChanged | floorVacant | handoverLapsed
  | latencyAligned | scriptState | inserterAbsent | inserterBack | lateRead | override | reference
  | overrun | writeRefused | engineError | snapshot
  deriving DecidableEq, Repr

/-- What a report names as its lane (section 12.5). -/
inductive ReportLane where
  | lane (l : LaneId)
  | command
  | none
  deriving DecidableEq, Repr

/-- A report as it is staged: its figures are those of the hand-over (R171, R172). -/
structure Report where
  cause : Cause
  lane : ReportLane
  ringSlot : Option Nat
  field : Field
  detail : List Item
  deriving DecidableEq, Repr

/-- Where the report writer stands (R168 step 5, R173). -/
inductive WriterPhase where
  | idle
  /-- START's write of 0 to header word 2. -/
  | startDropped
  /-- START's write of 0 to header word 0. -/
  | startProduce
  /-- Record `i` of the oldest staged report. -/
  | record (i : Nat)
  /-- Header word 2, with the dropped count written. -/
  | dropped (value : Counter)
  /-- Header word 0. -/
  | produce
  deriving DecidableEq, Repr

/-- The Report Unit (section 11.5). -/
structure ReportUnit where
  staging : List Report
  produce : Nat
  consume : Nat
  dropped : Counter
  lastDropped : Counter
  ringSize : Option Nat
  phase : WriterPhase
  deriving DecidableEq, Repr

/-! ## Memory Path and Transfer Engine (chapter 2) -/

/-- Window kinds (section 2.2). -/
inductive WindowKind where
  | ingest | command | cue | air | report
  deriving DecidableEq, Repr

/-- A window (section 2.2); the lane is absent for COMMAND and REPORT. -/
structure Window where
  base : Addr
  length : Nat
  kind : WindowKind
  lane : Option LaneId
  deriving DecidableEq, Repr

/-- The five Record Assemblers (section 3.1). -/
inductive AsmId where
  | lane (l : LaneId)
  | command
  deriving DecidableEq, Repr

/-- Requesters of the Transfer Engine (Table 2-3). -/
inductive Requester where
  | writeBack (a : AsmId)
  | fetch (l : LaneId)
  | report
  | setupResult
  deriving DecidableEq, Repr

/-- An entry of the request list (section 2.6). -/
structure Request where
  requester : Requester
  addr : Addr
  xfer : Transfer
  deriving DecidableEq, Repr

/-- A word of an access as it was taken (R17): data that leave for memory, a refused word masked (R24),
a word whose data come from memory, a word answered from inside the part. -/
inductive Taken where
  | store (w : Word)
  | masked
  | load
  | inside (w : Word)
  deriving DecidableEq, Repr

/-- Whose access is on Port M. -/
inductive Owner where
  | port (p : Port)
  | engine (r : Requester)
  deriving DecidableEq, Repr

/-- The access on Port M (R26). `orphan` marks an engine access whose outcome is discarded because STOP
took effect while it was in flight (R31, R169). -/
structure MAccess where
  owner : Owner
  addr : Addr
  isWrite : Bool
  words : List Taken
  orphan : Bool
  deriving DecidableEq, Repr

/-- Port states (section 2.1). -/
inductive PortState where
  | idle
  | waiting (a : Access)
  | inFlight
  deriving DecidableEq, Repr

/-- Response codes (R24). -/
inductive ResponseCode where
  | ok | refused | dataError | noResponse
  deriving DecidableEq, Repr

/-- A response as given to a port, with its read data. -/
structure Response where
  code : ResponseCode
  data : List Word
  deriving DecidableEq, Repr

/-- A refusal tally (R25). Its count has no width in the spec and does not wrap here, the model's choice
(log 31). -/
structure Tally where
  count : Nat
  first : Addr
  lane : ReportLane
  deriving DecidableEq, Repr

/-- The two requesters of the arbiter's third step (R28). -/
inductive Served where
  | portH | engine
  deriving DecidableEq, Repr

/-- One upstream port: its state, its refusal tally, and the last response given (log 3). -/
structure PortUnit where
  state : PortState
  tally : Tally
  response : Option Response
  deriving DecidableEq, Repr

/-- The Memory Path and Port M. -/
structure MemoryPath where
  windows : List (Option Window)
  h : PortUnit
  v : PortUnit
  portM : Option MAccess
  lastServed : Served
  memLimit : Nat
  deriving DecidableEq, Repr

/-- The Transfer Engine: the request list, and accesses whose requester has an earlier one still to
end (R30). -/
structure Engine where
  requests : List Request
  deferred : List Request
  deriving DecidableEq, Repr

/-! ## Record Assemblers (chapter 3) -/

/-- A complete record (R38). -/
structure Rec where
  slot : Nat
  words : List Word
  arrival : Field
  deriving DecidableEq, Repr

/-- An incomplete record: an unwritten word is absent (R34). -/
structure PartialRec where
  slot : Nat
  words : List (Option Word)
  arrival : Field
  deriving DecidableEq, Repr

/-- The assembly stage (section 3.2). -/
inductive Stage where
  | empty
  | incomplete (r : PartialRec)
  | complete (r : Rec)
  deriving DecidableEq, Repr

/-- Disposition outcomes, in the order of Table 12-3. -/
inductive DispOutcome where
  | accepted | acceptedGap | duplicate | stranger | badCheck | badForm | barred | refusedRole
  | heldOut | laneOff | refused
  deriving DecidableEq, Repr

/-- Pen health (section 4.3). -/
inductive Health where
  | good | warn | suspect | barred
  deriving DecidableEq, Repr

/-- A disposition (R47): outcome, detail by its code of Table 12-3, gap mark, pen health or NONE. -/
structure Disposition where
  outcome : DispOutcome
  detail : Nat
  gap : Bool
  health : Option Health
  deriving DecidableEq, Repr

/-- The handoff stage's record: processed, with its disposition. `isStop` marks a STOP directive,
whose write-back's end makes STOP take effect (R169). -/
structure Handoff where
  record : Rec
  disp : Disposition
  isStop : Bool
  deriving DecidableEq, Repr

/-- A Record Assembler (section 3.2). -/
structure Assembler where
  stage : Stage
  handoff : Option Handoff
  abandoned : Counter
  stray : Counter
  deriving DecidableEq, Repr

/-- The five assemblers, and the command assembler's lost count (R42). -/
structure Assemblers where
  lanes : Quad Assembler
  command : Assembler
  commandLost : Counter
  deriving DecidableEq, Repr

/-- The assembler named. -/
def Assemblers.get (x : Assemblers) : AsmId → Assembler
  | .lane l => x.lanes.get l
  | .command => x.command

/-- The assemblers with one replaced. -/
def Assemblers.set (x : Assemblers) (i : AsmId) (y : Assembler) : Assemblers :=
  match i with
  | .lane l => { x with lanes := x.lanes.set l y }
  | .command => { x with command := y }

/-! ## The lane (chapters 4 to 10) -/

/-- Roles of a pen slot (Table 4-1). -/
inductive Role where
  | floor | standby | none
  deriving DecidableEq, Repr

/-- A pen slot (Table 4-1). Its health is computed from the fault count (R54, log 20). -/
structure PenSlot where
  pen : Half
  role : Role
  fault : Nat
  base : Option Half
  lastHeard : Field
  silent : Bool
  keepRun : Nat
  lastAdmitted : Option Field
  deriving DecidableEq, Repr

/-- Floor states (section 4.4). -/
inductive FloorState where
  | steady
  | handover (deadline : Field)
  | vacant
  deriving DecidableEq, Repr

/-- A standby-list entry (R67). -/
structure StandbyEntry where
  tag : Half
  slot : SlotId
  arrival : Field
  newline : Bool
  speaker : Bool
  text : List Half
  deriving DecidableEq, Repr

/-- The Pen Monitor and Floor Control of a lane, with its two parameters (chapter 4). -/
structure Pens where
  slots : Pair PenSlot
  floor : FloorState
  standby : List StandbyEntry
  q : Nat
  takeWindow : Nat
  deriving DecidableEq, Repr

/-- The Latency Tracker (chapter 5). `onsets` is oldest first. -/
structure Tracker where
  onsets : List Field
  l : Nat
  hardAlign : Bool
  startPending : Bool
  lastArrival : Option Field
  d : Nat
  lmax : Nat
  s : Nat
  g : Nat
  initial : Nat
  deriving DecidableEq, Repr

/-- An admitted token: a hold-queue entry (section 6.3), and what a TOKEN entry of the emission queue
and a token span carry (R94, R105). -/
structure Tok where
  tag : Half
  due : Field
  newline : Bool
  speaker : Bool
  text : List Half
  script : Option Nat
  deriving DecidableEq, Repr

/-- The sixteen lane counters (Table 6-2). -/
structure Counters where
  admitted : Counter
  held : Counter
  queued : Counter
  emitted : Counter
  retracted : Counter
  discPressure : Counter
  discStale : Counter
  discOverride : Counter
  discFlush : Counter
  heldOut : Counter
  standbyDiscarded : Counter
  lostRecords : Counter
  missedPackets : Counter
  lateReads : Counter
  unmatchedOnsets : Counter
  erasedCells : Counter
  deriving DecidableEq, Repr

/-- Lane states (R86). -/
inductive LaneState where
  | off | run | softHeld | hardHeld
  deriving DecidableEq, Repr

/-- The Hold Queue block (chapter 6). `queue` is head first. The pressure tally's two counts (R97) have no
width in the spec and do not wrap here, the model's choice (log 31). -/
structure Hold where
  state : LaneState
  queue : List Tok
  tagCounter : Half
  tallyEarly : Nat
  tallyDiscard : Nat
  counters : Counters
  deriving DecidableEq, Repr

/-- Follow states (chapter 8). -/
inductive FollowState where
  | none | cued | locked | ended | fault
  deriving DecidableEq, Repr

/-- A cue (section 8.1). -/
structure Cue where
  first : Nat
  count : Nat
  deriving DecidableEq, Repr

/-- A buffered script record (R120). -/
structure ScriptRec where
  newline : Bool
  speaker : Bool
  text : List Half
  key : Half
  deriving DecidableEq, Repr

/-- A fetch in flight (R124): its burst in progress reads `records` records from `first`, `left` more
records follow it. -/
structure Fetch where
  first : Nat
  records : Nat
  left : Nat
  overtaken : Bool
  deriving DecidableEq, Repr

/-- An active seek run (R129). -/
structure Seek where
  candidate : Nat
  run : Nat
  deriving DecidableEq, Repr

/-- The Script Follower (chapter 8). The buffer's highest entry has index `fetchPoint - 1` (R124, log 18). -/
structure Follower where
  state : FollowState
  cue : Option Cue
  buffer : List ScriptRec
  fetchPoint : Nat
  cursor : Nat
  fetch : Option Fetch
  seek : Option Seek
  missRun : Nat
  skipCount : Counter
  starvedCount : Counter
  deriving DecidableEq, Repr

/-- What an emission-queue entry or a span stands for (section 9.1, R105). -/
inductive Body where
  | token (t : Tok)
  | marker (c0 c1 : Half)
  deriving DecidableEq, Repr

/-- An emission-queue entry (R140). `split`: a NEWROW was placed within it (R109). `cleared`: the row
image was emptied since its last character was placed (R144). `spk`: the speaker-marker characters it
was begun with (R144). -/
structure Entry where
  body : Body
  composed : Nat
  split : Bool
  cleared : Bool
  spk : Half × Half
  deriving DecidableEq, Repr

/-- A span of the bottom row (R105). -/
structure Span where
  start : Nat
  length : Nat
  leadSep : Bool
  continues : Bool
  copy : Body
  deriving DecidableEq, Repr

/-- The row image (R141): rows bottom to top, the bottom row's spans and open separator mark. -/
structure RowImage where
  bottom : List Half
  above : List (List Half)
  spans : List Span
  openSep : Bool
  deriving DecidableEq, Repr

/-- A cell of an air packet (section 9.3). -/
inductive Cell where
  | char (c : Half)
  | erase
  | newrow
  | clear
  deriving DecidableEq, Repr

/-- An air packet (Table 9-1), with the budget of its composition (R142). -/
structure Packet where
  generation : Half
  target : Field
  repeatFlag : Bool
  twinFlag : Bool
  cells : List Cell
  laneState : LaneState
  column : Nat
  holdDepth : Nat
  emissionDepth : Nat
  l : Nat
  d : Nat
  follow : FollowState
  cursor : Nat
  floorSlot : Option SlotId
  healthA : Option Health
  healthB : Option Health
  check : Half
  budget : Nat
  deriving DecidableEq, Repr

/-- The Page Composer (chapter 9), with the lane's read latch (R22). -/
structure Composer where
  emission : List Entry
  rows : RowImage
  eraseDebt : Nat
  pendingClear : Bool
  active : Packet
  next : Packet
  activeTwin : Bool
  nextTwin : Bool
  opened : Bool
  pairOpened : Bool
  missed : Bool
  composed : Bool
  unopened : Nat
  generation : Half
  latch : Option Packet
  c : Nat
  r : Nat
  w : Nat
  corrMarker : Half × Half
  spkMarker : Half × Half
  deriving DecidableEq, Repr

/-- Link modes (R157). -/
inductive LinkMode where
  | none | soft | hard
  deriving DecidableEq, Repr

/-- One lane: the blocks of its column, and its link mode and stale limit (R157). -/
structure Lane where
  pens : Pens
  tracker : Tracker
  hold : Hold
  recent : Pair (List Half)
  follower : Follower
  composer : Composer
  link : LinkMode
  stale : Nat
  deriving DecidableEq, Repr

/-! ## The part -/

/-- Part states (R165). -/
inductive PartState where
  | setup | running | stopping
  deriving DecidableEq, Repr

/-- Reset causes (R165). -/
inductive ResetCause where
  | power | pin | stop
  deriving DecidableEq, Repr

/-- The Command Unit, the boot straps as sampled (R19), the part-wide field-repeat mode (R151) and the
software override flag (R156). -/
structure CommandUnit where
  partState : PartState
  setupCopy : List Word
  resetCause : ResetCause
  boot1 : Bool
  boot0 : Bool
  fieldRepeat : Bool
  softOverride : Bool
  deriving DecidableEq, Repr

/-- The state of the SC4, with the queue of waiting commands and the counter of open orders (log 4). -/
structure State where
  pending : List Instr
  freeIndex : Nat
  timer : FieldTimer
  path : MemoryPath
  engine : Engine
  asm : Assemblers
  lanes : Quad Lane
  unit : CommandUnit
  report : ReportUnit
  deriving DecidableEq, Repr

/-! ## Values after reset -/

/-- R50: an empty pen slot. -/
def PenSlot.empty : PenSlot :=
  { pen := 0, role := .none, fault := 0, base := none, lastHeard := 0, silent := false, keepRun := 0,
    lastAdmitted := none }

/-- R72. -/
def Pens.reset : Pens :=
  { slots := ⟨.empty, .empty⟩, floor := .vacant, standby := [], q := 0, takeWindow := 0 }

/-- R85. -/
def Tracker.reset : Tracker :=
  { onsets := [], l := 0, hardAlign := false, startPending := false, lastArrival := none,
    d := 0, lmax := 0, s := 0, g := 0, initial := 0 }

/-- R100: every counter 0. -/
def Counters.zero : Counters :=
  { admitted := 0, held := 0, queued := 0, emitted := 0, retracted := 0, discPressure := 0, discStale := 0,
    discOverride := 0, discFlush := 0, heldOut := 0, standbyDiscarded := 0, lostRecords := 0,
    missedPackets := 0, lateReads := 0, unmatchedOnsets := 0, erasedCells := 0 }

/-- R103. -/
def Hold.reset : Hold :=
  { state := .off, queue := [], tagCounter := 0, tallyEarly := 0, tallyDiscard := 0, counters := .zero }

/-- R139. The fetch point is the model's choice (log 18). -/
def Follower.reset : Follower :=
  { state := .none, cue := none, buffer := [], fetchPoint := 0, cursor := 0, fetch := none, seek := none,
    missRun := 0, skipCount := 0, starvedCount := 0 }

/-- The empty row image (R141). -/
def RowImage.empty : RowImage := { bottom := [], above := [], spans := [], openSep := false }

/-- The empty packet after a reset (R155, section 12.3): words 0 to 14 are 0, and the check value is that
of fifteen zero words, which `packet_reset_check` (Laws) shows to be what the Conventions compute. -/
def Packet.reset : Packet :=
  { generation := 0, target := 0, repeatFlag := false, twinFlag := false, cells := [], laneState := .off,
    column := 0, holdDepth := 0, emissionDepth := 0, l := 0, d := 0, follow := .none, cursor := 0,
    floorSlot := none, healthA := none, healthB := none, check := 0xA445#16, budget := 0 }

/-- R155. ACTIVE counts as a twin. -/
def Composer.reset : Composer :=
  { emission := [], rows := .empty, eraseDebt := 0, pendingClear := true, active := .reset, next := .reset,
    activeTwin := true, nextTwin := false, opened := true, pairOpened := true, missed := false,
    composed := false, unopened := 0, generation := 0, latch := none, c := 0, r := 0, w := 0,
    corrMarker := (0, 0), spkMarker := (0, 0) }

/-- A lane after a reset and after STOP (R72, R85, R103, R104, R139, R155, R164). -/
def Lane.reset : Lane :=
  { pens := .reset, tracker := .reset, hold := .reset, recent := ⟨[], []⟩, follower := .reset,
    composer := .reset, link := .none, stale := 0 }

/-- An assembler with both stages empty and its counts 0 (R49). -/
def Assembler.reset : Assembler := { stage := .empty, handoff := none, abandoned := 0, stray := 0 }

/-- R49. -/
def Assemblers.reset : Assemblers :=
  { lanes := .all .reset, command := .reset, commandLost := 0 }

/-- R15. -/
def FieldTimer.reset : FieldTimer :=
  { timing := none, f := 0, field := none, refState := .locked, absenceRunning := false,
    lineTimerRunning := false, irregular := 0, va := .all ⟨false, 0⟩, ovr := ⟨false, 0⟩ }

/-- An empty refusal tally (R25). -/
def Tally.empty : Tally := { count := 0, first := 0, lane := .none }

/-- An upstream port after a reset (R16, R25, log 3). -/
def PortUnit.reset : PortUnit := { state := .idle, tally := .empty, response := none }

/-- R16, R18, R26, R28: with TIE high Port H counts as last served. -/
def MemoryPath.reset (tie : Bool) : MemoryPath :=
  { windows := List.replicate 16 none, h := .reset, v := .reset, portM := none,
    lastServed := if tie then .portH else .engine, memLimit := Config.resetMemLimit }

/-- R175. -/
def ReportUnit.reset : ReportUnit :=
  { staging := [], produce := 0, consume := 0, dropped := 0, lastDropped := 0, ringSize := none,
    phase := .idle }

/-- R164, R165, R175; the field-repeat mode is the model's choice (log 2). -/
def CommandUnit.reset (cause : ResetCause) (straps : Straps) : CommandUnit :=
  { partState := .setup, setupCopy := List.replicate 128 0, resetCause := cause,
    boot1 := straps.boot1, boot0 := straps.boot0, fieldRepeat := false, softOverride := false }

/-- The part after a reset with the straps as sampled. The waiting commands and the counter of open
orders are the model's own, not the part's. -/
def State.afterReset (cause : ResetCause) (straps : Straps) (pending : List Instr) (freeIndex : Nat) :
    State :=
  { pending := pending, freeIndex := freeIndex, timer := .reset, path := .reset straps.tie,
    engine := ⟨[], []⟩, asm := .reset, lanes := .all .reset, unit := .reset cause straps,
    report := .reset }

/-- The machine right after a power-on reset, with the three straps low (log 1). -/
def State.reset : State := State.afterReset .power ⟨false, false, false⟩ [] 0

end Sys2Proof.Machine
end

