-- ==== Sys2Proof/Machine/Ops.lean ====
section
/-!
DEFINITION. The shared operations: bit fields, field arithmetic, check value and match key, orders the
spec leaves open, updates of the parts of the state, the Transfer Engine's list and the Report Unit's
staging and writing.
-/
namespace Sys2Proof.Machine

/-! ## Bit fields -/

/-- Bits `lo` to `lo + n - 1` of a word, as an unsigned number (chapter 12). -/
def field (w : Word) (lo n : Nat) : Nat := (w.toNat / 2 ^ lo) % 2 ^ n

/-- Bit `i` of a word. -/
def bitOf (w : Word) (i : Nat) : Bool := field w i 1 == 1

/-- The half-word in bits 15-0. -/
def lowHalf (w : Word) : Half := BitVec.ofNat 16 w.toNat

/-- The half-word in bits 31-16. -/
def highHalf (w : Word) : Half := BitVec.ofNat 16 (w.toNat / 2 ^ 16)

/-- A number placed at bit `lo`. -/
def place (x lo : Nat) : Nat := x * 2 ^ lo

/-- A word from the sum of its fields, which do not overlap. -/
def mkWord (fields : List Nat) : Word := BitVec.ofNat 32 fields.sum

/-- A flag as a bit. -/
def bit (b : Bool) : Nat := if b then 1 else 0

/-- Word `k` of a list of words; a word that is not there reads as zero. -/
def wordAt (ws : List Word) (k : Nat) : Word := ws.getD k 0

/-- The byte address of word `k` from `a`. -/
def wordAddr (a : Addr) (k : Nat) : Addr := a + BitVec.ofNat 28 (4 * k)

/-! ## Field arithmetic (00_scope.md, "Fields and field arithmetic") -/

/-- `b - a`, taken mod 2^32. -/
def since (a b : Field) : Nat := (b - a).toNat

/-- Field `a` is earlier than field `b`: (b - a) mod 2^32 lies in 1 to 2^31 - 1. -/
def earlier (a b : Field) : Bool := 1 ≤ since a b && since a b < 2 ^ 31

/-- Field `a` is not later than field `b`. -/
def notLater (a b : Field) : Bool := a == b || earlier a b

/-! ## Check value and match key (00_scope.md) -/

/-- One bit of the cyclic check with generator x^16 + x^12 + x^5 + 1. -/
def checkBit (c : Half) : Half := if c.msb then (c <<< 1) ^^^ 0x1021#16 else c <<< 1

/-- `n` bits of the check. -/
def checkBits : Nat → Half → Half
  | 0, c => c
  | n + 1, c => checkBits n (checkBit c)

/-- One half-word, most significant bit first. -/
def checkHalf (c h : Half) : Half := checkBits 16 (c ^^^ h)

/-- The check value over half-words: initial value 0xFFFF, no final inversion. -/
def checkHalves (hs : List Half) : Half := hs.foldl checkHalf 0xFFFF#16

/-- The half-words of words, low half before high half. -/
def halvesOf (ws : List Word) : List Half := ws.flatMap fun w => [lowHalf w, highHalf w]

/-- The check value over words. -/
def checkWords (ws : List Word) : Half := checkHalves (halvesOf ws)

/-- The check value of a record: words 0 to 14 with words 2 and 14 taken as zero (R43). -/
def recordCheck (ws : List Word) : Half :=
  checkWords (((ws.take 15).set 2 0).set 14 0)

/-- The characters normalisation removes: ! " ' , . : ; ? and -. -/
def removedChars : List Half := [0x21, 0x22, 0x27, 0x2C, 0x2E, 0x3A, 0x3B, 0x3F, 0x2D]

/-- Normalisation replaces 0x0061 to 0x007A by the character 0x0020 lower. -/
def upper (c : Half) : Half := if 0x61 ≤ c.toNat && c.toNat ≤ 0x7A then c - 0x20#16 else c

/-- The normalised characters of a text. -/
def normalise (text : List Half) : List Half :=
  (text.filter fun c => !removedChars.contains c).map upper

/-- The match key of a text; 0 marks a neutral text. -/
def matchKey (text : List Half) : Half :=
  match normalise text with
  | [] => 0
  | n :: ns => if checkHalves (n :: ns) = 0 then 1 else checkHalves (n :: ns)

/-! ## Orders the spec leaves open (log 4) -/

/-- The permutation of a list that a code names: `code` mod the length picks the first element, and the
quotient orders the rest. -/
def permuteFuel {α : Type} : Nat → Nat → List α → List α
  | 0, _, xs => xs
  | _, _, [] => []
  | n + 1, code, x :: xs =>
    let k := code % (xs.length + 1)
    (x :: xs).getD k x :: permuteFuel n (code / (xs.length + 1)) ((x :: xs).eraseIdx k)

/-- The list in the order the code names. -/
def permute {α : Type} (code : Nat) (xs : List α) : List α := permuteFuel xs.length code xs

/-- The next open order (a free value), and the state with the counter advanced. -/
def freshOrder {α : Type} (xs : List α) (s : State) : List α × State :=
  (permute (Config.freeOrder s.freeIndex) xs, { s with freeIndex := s.freeIndex + 1 })

/-! ## Names and codes -/

/-- The lane of a number 0 to 3. -/
def laneOfNat : Nat → Option LaneId
  | 0 => some .l0
  | 1 => some .l1
  | 2 => some .l2
  | 3 => some .l3
  | _ => none

/-- The lane's number. -/
def laneNum : LaneId → Nat
  | .l0 => 0
  | .l1 => 1
  | .l2 => 2
  | .l3 => 3

/-- The four lanes. -/
def allLanes : List LaneId := [.l0, .l1, .l2, .l3]

/-- The other pen slot. -/
def otherSlot : SlotId → SlotId
  | .a => .b
  | .b => .a

/-- Opposite parity (R6, R7). -/
def Parity.opposite : Parity → Parity
  | .odd => .even
  | .even => .odd

/-! ## Updates of the parts of the state -/

/-- One lane replaced. -/
def State.setLane (s : State) (l : LaneId) (x : Lane) : State := { s with lanes := s.lanes.set l x }

/-- One assembler replaced. -/
def State.setAsm (s : State) (a : AsmId) (x : Assembler) : State := { s with asm := s.asm.set a x }

/-- The port unit of an upstream port. -/
def State.portUnit (s : State) : Port → PortUnit
  | .h => s.path.h
  | .v => s.path.v

/-- One upstream port's unit replaced. -/
def State.setPort (s : State) (p : Port) (x : PortUnit) : State :=
  match p with
  | .h => { s with path := { s.path with h := x } }
  | .v => { s with path := { s.path with v := x } }

/-- Port M's access replaced. -/
def State.setPortM (s : State) (m : Option MAccess) : State := { s with path := { s.path with portM := m } }

/-- The Report Unit replaced. -/
def State.setReport (s : State) (r : ReportUnit) : State := { s with report := r }

/-! ## Windows (section 2.2) -/

/-- The window covers the byte address (R18). -/
def Window.covers (w : Window) (a : Addr) : Bool :=
  w.base.toNat ≤ a.toNat && a.toNat < w.base.toNat + w.length

/-- The first window that satisfies a test. -/
def findWindow (ws : List (Option Window)) (p : Window → Bool) : Option Window :=
  ws.findSome? fun
    | some w => if p w then some w else none
    | none => none

/-- The window of a kind and lane in the loaded table. -/
def State.windowOf (s : State) (k : WindowKind) (l : Option LaneId) : Option Window :=
  findWindow s.path.windows fun w => w.kind == k && w.lane == l

/-- The window an assembler watches. -/
def State.ringWindow (s : State) : AsmId → Option Window
  | .lane l => s.windowOf .ingest (some l)
  | .command => s.windowOf .command none

/-- The lane a report names for an assembler (12.5). -/
def AsmId.reportLane : AsmId → ReportLane
  | .lane l => .lane l
  | .command => .command

/-! ## The Transfer Engine's list (R30) -/

/-- The requester has an access in the list or in flight on Port M. -/
def State.requesterBusy (s : State) (r : Requester) : Bool :=
  s.engine.requests.any (fun q => q.requester == r) ||
    (match s.path.portM with
     | some m => m.owner == .engine r
     | none => false)

/-- R30: an access enters at the tail of the list; one whose requester has an earlier access still to end
enters when that one ends (log 27). -/
def enterRequest (q : Request) (s : State) : State :=
  if s.requesterBusy q.requester then
    { s with engine := { s.engine with deferred := s.engine.deferred ++ [q] } }
  else
    { s with engine := { s.engine with requests := s.engine.requests ++ [q] } }

/-- R30: the requester's entry not yet granted is withdrawn. -/
def withdrawRequest (r : Requester) (s : State) : State :=
  { s with engine :=
      { requests := s.engine.requests.filter (fun q => q.requester != r),
        deferred := s.engine.deferred.filter (fun q => q.requester != r) } }

/-- R30: after an access ends, an access that waited for that end enters the list. -/
def promoteDeferred (s : State) : State :=
  s.engine.deferred.foldl (fun t q => enterRequest q t) { s with engine := { s.engine with deferred := [] } }

end Sys2Proof.Machine
end

