-- ==== Sys2Proof/Machine/Flags.lean ====
section
/-!
DEFINITION. Standings and conditions the rules compute from the state: pen health, silence and
eligibility, the override, ATTN, urgency.
-/
namespace Sys2Proof.Machine

/-! ## Pens (R50, R54, R57) -/

/-- R54: the health that a fault count gives. -/
def healthOf (fault : Nat) : Health :=
  if fault < 50 then .good else if fault < 100 then .warn else if fault < 200 then .suspect else .barred

/-- The standing of the pen in a slot. -/
def PenSlot.health (p : PenSlot) : Health := healthOf p.fault

/-- R50: a slot is empty when its pen id is 0. -/
def PenSlot.isEmpty (p : PenSlot) : Bool := p.pen == 0

/-- R57: a pen is eligible for the floor when its slot is non-empty, its health is GOOD or WARN, and it is
not silent. -/
def PenSlot.eligible (p : PenSlot) : Bool :=
  !p.isEmpty && (p.health == .good || p.health == .warn) && !p.silent

/-- R60, R62: silent or SUSPECT. -/
def PenSlot.failing (p : PenSlot) : Bool := p.silent || p.health == .suspect

/-- The slot that has role FLOOR (R58). -/
def Pens.floorSlot (p : Pens) : Option SlotId :=
  if p.slots.a.role = .floor then some .a else if p.slots.b.role = .floor then some .b else none

/-- The slot that holds a pen id; an id of 0 is held by no slot (R45). -/
def Pens.slotOf (p : Pens) (pen : Half) : Option SlotId :=
  if pen = 0 then none
  else if p.slots.a.pen = pen then some .a else if p.slots.b.pen = pen then some .b else none

/-! ## Override (R156, R157) -/

/-- R156: on when the taken OVR level is HIGH or the software override flag is ON. -/
def State.overrideOn (s : State) : Bool := s.timer.ovr.taken || s.unit.softOverride

/-! ## Field Timer (R5) -/

/-- The expected count of a field of a parity (section 1.1). -/
def Timing.expected (t : Timing) : Parity → Nat
  | .odd => t.eOdd
  | .even => t.eEven

/-- R5: the synthesis threshold of the field in progress. -/
def Timing.threshold (t : Timing) (c : CurrentField) : Nat :=
  match c.origin with
  | .real => t.expected c.parity + 2
  | .synthesised => t.expected c.parity + 1

/-! ## Reports (R174, R29) -/

/-- R174: ATTN is asserted while the part is RUNNING or STOPPING and the produce index differs from the
last valid consume index. -/
def State.attn (s : State) : Bool :=
  s.unit.partState != .setup && s.report.produce != s.report.consume

/-! ## Script Follower (R123, R124, R21) -/

/-- The index of the buffer's first entry (log 18). -/
def Follower.base (f : Follower) : Nat := f.fetchPoint - f.buffer.length

/-- The buffered record of an index, if it is buffered (R123). -/
def Follower.buffered (f : Follower) (i : Nat) : Option ScriptRec :=
  if f.base ≤ i then f.buffer[i - f.base]? else none

/-- The number of buffered indices at or beyond the cursor (R123). -/
def Follower.unconsumed (f : Follower) : Nat := f.fetchPoint - max f.base f.cursor

/-- The end of a cue: the index one past its last record (section 8.1). -/
def Cue.last (c : Cue) : Nat := c.first + c.count

/-- R21: the block is protected in CUED, LOCKED and ENDED. -/
def Follower.protects (f : Follower) : Bool :=
  f.state == .cued || f.state == .locked || f.state == .ended

/-- R21: the byte offset in the CUE window lies in the cued block. -/
def Follower.inBlock (f : Follower) (offset : Nat) : Bool :=
  match f.cue with
  | some c => 32 * c.first ≤ offset && offset < 32 * c.last
  | none => false

/-- R29: the entry is urgent as the state now stands. -/
def State.urgent (s : State) (q : Request) : Bool :=
  match q.requester with
  | .fetch l => (s.lanes.get l).follower.state == .locked && (s.lanes.get l).follower.unconsumed == 0
  | .report => Config.stagingUrgent ≤ s.report.staging.length
  | .writeBack _ => false
  | .setupResult => false

/-- R29: the urgent entry entered earliest, and otherwise the entry entered earliest. -/
def State.frontEntry (s : State) : Option Request :=
  match s.engine.requests.find? (fun q => s.urgent q) with
  | some q => some q
  | none => s.engine.requests.head?

/-! ## Page Composer (R140, R105) -/

/-- Uncomposed: no character placed (R140). -/
def Entry.uncomposed (e : Entry) : Bool := e.composed == 0

/-- The token of a TOKEN entry or token span. -/
def Body.tok? : Body → Option Tok
  | .token t => some t
  | .marker _ _ => none

/-- The entry is a TOKEN entry with this tag. -/
def Body.hasTag (b : Body) (tag : Half) : Bool :=
  match b with
  | .token t => t.tag == tag
  | .marker _ _ => false

/-- The row image shows no character on its bottom row. -/
def RowImage.column (r : RowImage) : Nat := r.bottom.length

/-- Number of rows of the row image (R154). -/
def RowImage.rowCount (r : RowImage) : Nat := r.above.length + 1

end Sys2Proof.Machine
end

