-- ==== Sys2Proof/Machine/Operands.lean ====
section
/-!
DEFINITION. The formats of chapter 12: records as the host writes them and as the part reads them,
script records, air packets, the setup table, dispositions and reports.
-/
namespace Sys2Proof.Machine

/-! ## Records (Tables 12-1 and 12-2) -/

/-- Ingest record kinds with their codes (12.1). -/
inductive IngestKind where
  | token | correct | offer | take | keepalive
  deriving DecidableEq, Repr

/-- Directive kinds (12.1). -/
inductive DirectiveKind where
  | laneSet | penSet | cue | uncue | link | override | flush | restore | snapshot | stop
  deriving DecidableEq, Repr

/-- The code of an ingest kind. -/
def IngestKind.code : IngestKind → Nat
  | .token => 0x01
  | .correct => 0x02
  | .offer => 0x03
  | .take => 0x04
  | .keepalive => 0x05

/-- The ingest kind of a code; every other value is unknown. -/
def ingestKindOf (c : Nat) : Option IngestKind :=
  if c = 1 then some .token else if c = 2 then some .correct else if c = 3 then some .offer
  else if c = 4 then some .take else if c = 5 then some .keepalive else none

/-- The code of a directive kind. -/
def DirectiveKind.code : DirectiveKind → Nat
  | .laneSet => 0x11
  | .penSet => 0x12
  | .cue => 0x13
  | .uncue => 0x14
  | .link => 0x15
  | .override => 0x16
  | .flush => 0x17
  | .restore => 0x18
  | .snapshot => 0x19
  | .stop => 0x1A

/-- The directive kind of a code. -/
def directiveKindOf (c : Nat) : Option DirectiveKind :=
  if c = 0x11 then some .laneSet else if c = 0x12 then some .penSet else if c = 0x13 then some .cue
  else if c = 0x14 then some .uncue else if c = 0x15 then some .link else if c = 0x16 then some .override
  else if c = 0x17 then some .flush else if c = 0x18 then some .restore
  else if c = 0x19 then some .snapshot else if c = 0x1A then some .stop else none

/-- The sixteen words of an ingest record, with words 2 and 14 zero (Table 12-1). -/
def ingestWords (k : IngestKind) (r : IngestFields) : List Word :=
  [mkWord [k.code, place (bit r.newline) 8, place (bit r.speaker) 9, place (bit r.gap) 10,
      place r.length.toNat 16, place r.argument.toNat 24],
    mkWord [r.pen.toNat, place r.seq.toNat 16], 0, r.argWord] ++ r.text ++
  [0, mkWord [r.check.toNat]]

/-- The sixteen words of a command record: kind, word 1, word 3, words 4 to 9; the rest zero. -/
def directiveWords (k : DirectiveKind) (w1 w3 : Word) (w4to9 : List Word) (check : Half) : List Word :=
  [mkWord [k.code], w1, 0, w3] ++ (w4to9 ++ List.replicate (10 - w4to9.length) 0) ++ [0, mkWord [check.toNat]]

/-- The words of a LANE-SET (Table 12-2). -/
def laneSetWords (enable : Bool) (p : LaneSetFields) : List Word :=
  directiveWords .laneSet (mkWord [p.lane.toNat, place (bit enable) 16])
    (mkWord [p.d.toNat, place p.lmax.toNat 16])
    [mkWord [p.initial.toNat, place p.s.toNat 16, place p.g.toNat 24],
     mkWord [p.q.toNat, place p.takeWindow.toNat 16],
     mkWord [p.c.toNat, place p.r.toNat 8, place p.w.toNat 16],
     mkWord [p.stale.toNat], p.corrMarker, p.spkMarker] p.check

/-- The characters of words, two to a word, low half first (00_scope.md, "Characters"). -/
def charsOf (ws : List Word) : List Half := halvesOf ws

/-- A two-character marker (R176). -/
def markerOf (w : Word) : Half × Half := (lowHalf w, highHalf w)

/-- The named fields of an ingest record as the part reads them (Table 12-1). -/
structure IngestRecord where
  kind : Option IngestKind
  newline : Bool
  speaker : Bool
  gap : Bool
  length : Nat
  argument : Nat
  pen : Half
  seq : Half
  chars : List Half
  arrival : Field
  deriving DecidableEq, Repr

/-- R176: each value read from the field Table 12-1 gives it. -/
def readIngest (r : Rec) : IngestRecord :=
  let w0 := wordAt r.words 0
  { kind := ingestKindOf (field w0 0 8), newline := bitOf w0 8, speaker := bitOf w0 9, gap := bitOf w0 10,
    length := field w0 16 5, argument := field w0 24 4,
    pen := lowHalf (wordAt r.words 1), seq := highHalf (wordAt r.words 1),
    chars := charsOf ((r.words.drop 4).take 10), arrival := r.arrival }

/-- The text of the record: its first `length` characters. -/
def IngestRecord.text (r : IngestRecord) : List Half := r.chars.take r.length

/-- A character is 0x0020 or above (00_scope.md, "Characters"). -/
def charOk (c : Half) : Bool := 0x20 ≤ c.toNat

/-- R44: the form tests in order; the detail of the first that fails, by its code of Table 12-3. -/
def formFailure (r : IngestRecord) : Option Nat :=
  match r.kind with
  | none => some 1
  | some k =>
    let lengthOk := if k = .token then 1 ≤ r.length && r.length ≤ 20 else r.length == 0
    if !lengthOk then some 2
    else if k = .correct && !(1 ≤ r.argument && r.argument ≤ 8) then some 3
    else if !(r.text.all charOk) then some 4
    else none

/-- R43: the computed check value equals bits 15-0 of word 15. -/
def checkPasses (r : Rec) : Bool := recordCheck r.words == lowHalf (wordAt r.words 15)

/-! ## LANE-SET parameters (Table 11-3) -/

/-- The parameters of a LANE-SET as read. -/
structure LaneParams where
  enable : Bool
  d : Nat
  lmax : Nat
  initial : Nat
  s : Nat
  g : Nat
  q : Nat
  takeWindow : Nat
  c : Nat
  r : Nat
  w : Nat
  stale : Nat
  corrMarker : Half × Half
  spkMarker : Half × Half
  deriving DecidableEq, Repr

/-- Table 12-2. -/
def readLaneSet (ws : List Word) : LaneParams :=
  { enable := bitOf (wordAt ws 1) 16,
    d := field (wordAt ws 3) 0 10, lmax := field (wordAt ws 3) 16 10,
    initial := field (wordAt ws 4) 0 10, s := field (wordAt ws 4) 16 4, g := field (wordAt ws 4) 24 8,
    q := field (wordAt ws 5) 0 12, takeWindow := field (wordAt ws 5) 16 10,
    c := field (wordAt ws 6) 0 4, r := field (wordAt ws 6) 8 3, w := field (wordAt ws 6) 16 6,
    stale := field (wordAt ws 7) 0 10,
    corrMarker := markerOf (wordAt ws 8), spkMarker := markerOf (wordAt ws 9) }

/-- The number lies in the range, both ends included. -/
def inRange (lo hi x : Nat) : Bool := lo ≤ x && x ≤ hi

/-- Table 11-3: every parameter of a LANE-SET lies within its range. -/
def LaneParams.ok (p : LaneParams) : Bool :=
  inRange 1 1023 p.d && inRange 1 p.d p.lmax && inRange 1 15 p.s && inRange 1 255 p.g &&
  inRange 0 p.d p.initial && inRange 1 4095 p.q && inRange 1 1023 p.takeWindow && inRange 1 8 p.c &&
  inRange 2 4 p.r && inRange 16 40 p.w && inRange 0 1023 p.stale &&
  charOk p.corrMarker.1 && charOk p.corrMarker.2 && charOk p.spkMarker.1 && charOk p.spkMarker.2

/-! ## Script records (12.2) -/

/-- R120: a well-formed script record with its key, from its eight words; a word that the answer does not hold reads
as 0, the model's choice (log 25), so that a text that needs one is malformed. -/
def readScript (ws : List Word) : Option ScriptRec :=
  let w0 := wordAt ws 0
  let n := field w0 0 5
  let text := (charsOf ((List.range 7).map fun k => wordAt ws (k + 1))).take n
  if inRange 1 14 n && text.all charOk then
    some { newline := bitOf w0 8, speaker := bitOf w0 9, text := text, key := matchKey text }
  else none

/-! ## Codes (Tables 12-3, 12-4, 12.5) -/

/-- Lane state codes (Table 12-4). -/
def LaneState.code : LaneState → Nat
  | .off => 0
  | .run => 1
  | .softHeld => 2
  | .hardHeld => 3

/-- Follow state codes (Table 12-4). -/
def FollowState.code : FollowState → Nat
  | .none => 0
  | .cued => 1
  | .locked => 2
  | .ended => 3
  | .fault => 4

/-- Link mode codes (Table 12-2). -/
def LinkMode.code : LinkMode → Nat
  | .none => 0
  | .soft => 1
  | .hard => 2

/-- Floor state codes (12.1). -/
def FloorState.code : FloorState → Nat
  | .steady => 1
  | .handover _ => 2
  | .vacant => 3

/-- Pen health codes (Table 12-3). -/
def Health.code : Health → Nat
  | .good => 1
  | .warn => 2
  | .suspect => 3
  | .barred => 4

/-- A health, or NONE. -/
def healthCode : Option Health → Nat
  | some h => h.code
  | none => 0

/-- Reference state codes (12.5). -/
def RefState.code : RefState → Nat
  | .locked => 1
  | .freewheel => 2
  | .lineLost => 3

/-- Pen slot codes in reports (12.5): 255 for none. -/
def slotCode : Option SlotId → Nat
  | some .a => 0
  | some .b => 1
  | none => 255

/-- Floor slot codes in the air packet (Table 12-4). -/
def floorCode : Option SlotId → Nat
  | some .a => 1
  | some .b => 2
  | none => 0

/-- Port codes (12.5). -/
def portCode : Port → Nat
  | .h => 0
  | .v => 1

/-- Outcome codes (Table 12-3). -/
def DispOutcome.code : DispOutcome → Nat
  | .accepted => 1
  | .acceptedGap => 2
  | .duplicate => 3
  | .stranger => 4
  | .badCheck => 5
  | .badForm => 6
  | .barred => 7
  | .refusedRole => 8
  | .heldOut => 9
  | .laneOff => 10
  | .refused => 11

/-- Cause codes, 1 to 18 in the order of Table 11-4 (12.5). -/
def Cause.code : Cause → Nat
  | .stopped => 1
  | .lostRecord => 2
  | .slotReused => 3
  | .penHealth => 4
  | .floorChanged => 5
  | .floorVacant => 6
  | .handoverLapsed => 7
  | .latencyAligned => 8
  | .scriptState => 9
  | .inserterAbsent => 10
  | .inserterBack => 11
  | .lateRead => 12
  | .override => 13
  | .reference => 14
  | .overrun => 15
  | .writeRefused => 16
  | .engineError => 17
  | .snapshot => 18

/-- Lane codes in reports (12.5). -/
def ReportLane.code : ReportLane → Nat
  | .lane l => laneNum l
  | .command => 4
  | .none => 7

/-- Reset cause codes (12.4). -/
def ResetCause.code : ResetCause → Nat
  | .power => 1
  | .pin => 2
  | .stop => 3

/-! ## The disposition word (Table 12-3) -/

/-- The word written into word 14 of the record's slot. -/
def Disposition.word (d : Disposition) : Word :=
  mkWord [d.outcome.code, place (d.detail % 256) 8, place (bit d.gap) 16, place (healthCode d.health) 17]

/-! ## Reports (12.5, R177) -/

/-- An item of 8 bits from a number. -/
def codeItem (n : Nat) : Item := .code (BitVec.ofNat 8 n)

/-- A flag item. -/
def flagItem (b : Bool) : Item := codeItem (bit b)

/-- A half item from a number. -/
def halfItem (n : Nat) : Item := .half (BitVec.ofNat 16 n)

/-- Packing in progress: finished words, the current word's value, the bits it holds. -/
structure Packing where
  done : List Word
  cur : Nat
  used : Nat
  deriving DecidableEq, Repr

/-- The current word ended, if it holds anything. -/
def Packing.close (p : Packing) : Packing :=
  if p.used = 0 then p else { done := p.done ++ [BitVec.ofNat 32 p.cur], cur := 0, used := 0 }

/-- `n` bits of value `v` packed into the current word, or into a new one when they do not fit. -/
def Packing.push (p : Packing) (v n : Nat) : Packing :=
  let q := if p.used + n ≤ 32 then p else p.close
  { q with cur := q.cur + place v q.used, used := q.used + n }

/-- R177: one item packed. -/
def Packing.item (p : Packing) : Item → Packing
  | .whole w => { p.close with done := p.close.done ++ [w] }
  | .half h => p.push h.toNat 16
  | .code c => p.push c.toNat 8

/-- The detail words of a report (R177). -/
def detailWords (items : List Item) : List Word :=
  ((items.foldl Packing.item { done := [], cur := 0, used := 0 }).close).done

/-- R171: a SNAPSHOT fills seven records, every other report one. -/
def Report.records (r : Report) : Nat := if r.cause = .snapshot then 7 else 1

/-- Word 0 of record `i` of a report (12.5). -/
def Report.word0 (r : Report) (i : Nat) : Word :=
  mkWord [r.cause.code, place r.lane.code 8, place i 12,
    place (match r.ringSlot with | some s => s % 65536 | none => 0xFFFF) 16]

/-- The eight words of record `i` of a report: detail words after the last item are 0 (R177). -/
def Report.recordWords (r : Report) (i : Nat) : List Word :=
  let d := (detailWords r.detail).drop (6 * i) |>.take 6
  [r.word0 i, r.field] ++ d ++ List.replicate (6 - d.length) 0

/-! ## The air packet (Table 12-4) -/

/-- The code of a cell. -/
def Cell.code : Cell → Half
  | .char c => c
  | .erase => 0x0008
  | .newrow => 0x000A
  | .clear => 0x000C

/-- The cell at a position, 0 at and beyond the cell count. -/
def Packet.cellCode (p : Packet) (i : Nat) : Nat :=
  match p.cells[i]? with
  | some c => c.code.toNat
  | none => 0

/-- Words 0 to 14 of a packet. -/
def Packet.body (p : Packet) : List Word :=
  [mkWord [p.generation.toNat, place p.cells.length 16, place (bit p.repeatFlag) 24,
      place (bit p.twinFlag) 25, place p.laneState.code 28],
   p.target,
   mkWord [p.cellCode 0, place (p.cellCode 1) 16], mkWord [p.cellCode 2, place (p.cellCode 3) 16],
   mkWord [p.cellCode 4, place (p.cellCode 5) 16], mkWord [p.cellCode 6, place (p.cellCode 7) 16],
   mkWord [p.column, place p.holdDepth 8, place p.emissionDepth 16],
   mkWord [p.l, place p.d 16],
   mkWord [p.follow.code, place p.cursor 16],
   mkWord [floorCode p.floorSlot, place (healthCode p.healthA) 4, place (healthCode p.healthB) 8],
   0, 0, 0, 0, 0]

/-- Word `k` of a packet, as read through the AIR window. -/
def Packet.word (p : Packet) (k : Nat) : Word :=
  if k = 15 then mkWord [p.check.toNat] else wordAt p.body k

/-- The packet with its check value computed after every other content (R142). -/
def Packet.sealed (p : Packet) : Packet := { p with check := checkWords p.body }

/-! ## The setup table (12.4, R167) -/

/-- Reasons of a refused START (12.4). -/
inductive SetupReason where
  | value | entry | length | overlap | extra | orphan | missing
  deriving DecidableEq, Repr

/-- Reason codes (12.4). -/
def SetupReason.code : SetupReason → Nat
  | .value => 1
  | .entry => 2
  | .length => 3
  | .overlap => 4
  | .extra => 5
  | .orphan => 6
  | .missing => 7

/-- A window entry as the setup copy gives it; the empty code makes it absent. -/
structure RawEntry where
  base : Nat
  kind : Nat
  length : Nat
  lane : Nat
  deriving DecidableEq, Repr

/-- Entry `i` of the setup copy. -/
def rawEntry (copy : List Word) (i : Nat) : Option RawEntry :=
  let w0 := wordAt copy (32 + 2 * i)
  let w1 := wordAt copy (33 + 2 * i)
  if field w0 28 4 = 0 then none
  else some { base := field w0 0 28, kind := field w0 28 4, length := field w1 0 24, lane := field w1 24 8 }

/-- The sixteen entries with their indices, the empty ones left out: no test examines them (R167). -/
def rawEntries (copy : List Word) : List (Nat × RawEntry) :=
  (List.range 16).filterMap fun i => (rawEntry copy i).map fun e => (i, e)

/-- Window kind codes (12.4). -/
def windowKindOf : Nat → Option WindowKind
  | 1 => some .ingest
  | 2 => some .command
  | 3 => some .cue
  | 4 => some .air
  | 5 => some .report
  | _ => none

/-- Kinds that name a lane (section 2.2). -/
def WindowKind.hasLane : WindowKind → Bool
  | .ingest => true
  | .cue => true
  | .air => true
  | .command => false
  | .report => false

/-- The timing values of the setup copy (12.4). -/
def readTiming (copy : List Word) : Timing :=
  { eOdd := field (wordAt copy 2) 0 10, eEven := field (wordAt copy 2) 16 10,
    k := field (wordAt copy 3) 0 10, period := field (wordAt copy 4) 0 10,
    vaGuard := field (wordAt copy 4) 16 8, ovrGuard := field (wordAt copy 4) 24 8 }

/-- The field-repeat flag. -/
def readFieldRepeat (copy : List Word) : Bool := bitOf (wordAt copy 3) 16

/-- The memory response limit. -/
def readMemLimit (copy : List Word) : Nat := field (wordAt copy 5) 0 8

/-- The report ring size. -/
def readRingSize (copy : List Word) : Nat := field (wordAt copy 5) 16 9

/-- R167 test 1. -/
def valuesOk (copy : List Word) : Bool :=
  let t := readTiming copy
  inRange 200 700 t.eOdd && inRange 200 700 t.eEven && inRange 2 (min t.eOdd t.eEven) t.k &&
  inRange 100 1000 t.period && inRange 1 255 t.vaGuard && inRange 1 255 t.ovrGuard &&
  inRange 1 255 (readMemLimit copy) && inRange 8 256 (readRingSize copy)

/-- R167 test 2 for one entry. -/
def entryOk (e : RawEntry) : Bool :=
  match windowKindOf e.kind with
  | some k => (!k.hasLane || e.lane ≤ 3) && e.base % 64 == 0 && e.base + e.length ≤ 2 ^ 28
  | none => false

/-- R167 test 3 for one entry. -/
def lengthOk (ringSize : Nat) (e : RawEntry) : Bool :=
  match windowKindOf e.kind with
  | some .ingest => e.length % 64 == 0 && inRange 16 1024 (e.length / 64)
  | some .command => e.length % 64 == 0 && inRange 16 256 (e.length / 64)
  | some .cue => e.length % 32 == 0 && inRange 32 131072 e.length
  | some .air => e.length == 64
  | some .report => e.length == 32 + 32 * ringSize
  | none => false

/-- Two ranges of addresses share an address. -/
def rangesMeet (b1 n1 b2 n2 : Nat) : Bool := b1 < b2 + n2 && b2 < b1 + n1

/-- R167 test 4 for one entry: it overlaps the boot window or an entry of lower index. -/
def overlaps (boot : Nat) (all : List (Nat × RawEntry)) (x : Nat × RawEntry) : Bool :=
  rangesMeet boot 512 x.2.base x.2.length ||
    all.any fun y => y.1 < x.1 && rangesMeet y.2.base y.2.length x.2.base x.2.length

/-- Two entries are of one kind and, where the kind has a lane, of one lane (R167 test 5). -/
def sameUse (x y : RawEntry) : Bool :=
  x.kind == y.kind &&
    (match windowKindOf x.kind with
     | some k => !k.hasLane || x.lane == y.lane
     | none => false)

/-- R167 test 5 for one entry: an entry of lower index has the same use. -/
def extra (all : List (Nat × RawEntry)) (x : Nat × RawEntry) : Bool :=
  all.any fun y => y.1 < x.1 && sameUse y.2 x.2

/-- An entry of a kind code for a lane exists. -/
def hasEntry (all : List (Nat × RawEntry)) (kind lane : Nat) : Bool :=
  all.any fun y => y.2.kind == kind && y.2.lane == lane

/-- R167 test 6 for one entry: AIR or CUE of a lane without an INGEST entry. -/
def orphan (all : List (Nat × RawEntry)) (x : Nat × RawEntry) : Bool :=
  (x.2.kind == 4 || x.2.kind == 3) && !hasEntry all 1 x.2.lane

/-- The index of the first entry that fails a test. -/
def firstFailing (p : Nat × RawEntry → Bool) (all : List (Nat × RawEntry)) : Option Nat :=
  (all.find? p).map (·.1)

/-- The base of the boot window (Table 2-1). -/
def bootBase (boot1 boot0 : Bool) : Nat :=
  if boot1 then (if boot0 then 0xFFFFE00 else 0x8000000) else (if boot0 then 0x4000000 else 0)

/-- R167: the seven tests in order; the reason and failing entry of the first that fails. The order
within test 7 is log 16. -/
def setupFailure (boot : Nat) (copy : List Word) : Option (SetupReason × Option Nat) :=
  let all := rawEntries copy
  if !valuesOk copy then some (.value, none)
  else match firstFailing (fun x => !entryOk x.2) all with
  | some i => some (.entry, some i)
  | none => match firstFailing (fun x => !lengthOk (readRingSize copy) x.2) all with
  | some i => some (.length, some i)
  | none => match firstFailing (overlaps boot all) all with
  | some i => some (.overlap, some i)
  | none => match firstFailing (extra all) all with
  | some i => some (.extra, some i)
  | none => match firstFailing (orphan all) all with
  | some i => some (.orphan, some i)
  | none =>
    if !(all.any fun x => x.2.kind == 2) || !(all.any fun x => x.2.kind == 5) then some (.missing, none)
    else match firstFailing (fun x => x.2.kind == 1 && !hasEntry all 4 x.2.lane) all with
    | some i => some (.missing, some i)
    | none => none

/-- The window an entry of an accepted table loads (R168 step 1). -/
def RawEntry.window (e : RawEntry) : Option Window :=
  (windowKindOf e.kind).map fun k =>
    { base := BitVec.ofNat 28 e.base, length := e.length, kind := k,
      lane := if k.hasLane then laneOfNat e.lane else none }

/-- The window table of an accepted setup copy, each entry at its own index. -/
def readWindows (copy : List Word) : List (Option Window) :=
  (List.range 16).map fun i => (rawEntry copy i).bind RawEntry.window

/-- The setup result word (12.4): outcome ACCEPTED with no failure, REFUSED with its reason. -/
def resultWord (failure : Option (SetupReason × Option Nat)) (cause : ResetCause) : Word :=
  let outcome := match failure with | none => 1 | some _ => 2
  let reason := match failure with | none => 0 | some (r, _) => r.code
  let index := match failure with | some (_, some i) => i | _ => 31
  mkWord [outcome, place reason 4, place index 8, place cause.code 16, place Config.revision.toNat 24]

end Sys2Proof.Machine
end

