-- ==== Sys2Proof/Machine/Reports.lean ====
section
/-!
DEFINITION. The Report Unit (section 11.5): staging, room, the writing of a report in steps; and the work
of a lane, whose reports and script fetches leave the lane as effects.
-/
namespace Sys2Proof.Machine

/-! ## Writing (R173) -/

/-- The base of the REPORT window; 0 when the table holds none, where no report is written. -/
def State.reportBase (s : State) : Addr :=
  match s.windowOf .report none with
  | some w => w.base
  | none => 0

/-- The report ring size, 0 while there is none (R175). -/
def ReportUnit.size (r : ReportUnit) : Nat := r.ringSize.getD 0

/-- R173 step 1: the free records of the ring, (consume - produce - 1) mod size. -/
def ReportUnit.freeRecords (r : ReportUnit) : Nat :=
  if r.size = 0 then 0 else (r.consume + 2 * r.size - r.produce - 1) % r.size

/-- R173 step 1: reports at the front that find too few free records leave the queue, counted. -/
def dropFull (free : Nat) : List Report → Counter → List Report × Counter
  | [], dropped => ([], dropped)
  | r :: rs, dropped => if free < r.records then dropFull free rs (dropped + 1) else (r :: rs, dropped)

/-- The address of report record `i` of the ring (12.5). -/
def recordAddr (base : Addr) (i : Nat) : Addr := base + BitVec.ofNat 28 (32 + 32 * i)

/-- R173 step 2: the report writer enters the write of record `i` of the oldest report. -/
def enterRecord (i : Nat) (s : State) : State :=
  match s.report.staging with
  | [] => s
  | r :: _ =>
    enterRequest
      { requester := .report, addr := recordAddr s.reportBase ((s.report.produce + i) % s.report.size),
        xfer := .write (r.recordWords i) }
      (s.setReport { s.report with phase := .record i })

/-- R173 step 3: header word 2 is written with the current dropped count. -/
def enterDropped (s : State) : State :=
  enterRequest { requester := .report, addr := s.reportBase + 8, xfer := .write [s.report.dropped] }
    (s.setReport { s.report with phase := .dropped s.report.dropped })

/-- The produce index after the oldest report (R173 step 4). -/
def ReportUnit.nextProduce (r : ReportUnit) : Nat :=
  (r.produce + (match r.staging with | x :: _ => x.records | [] => 0)) % r.size

/-- R173 step 4: header word 0 is written with the new produce index. -/
def enterProduce (s : State) : State :=
  enterRequest
    { requester := .report, addr := s.reportBase, xfer := .write [BitVec.ofNat 32 s.report.nextProduce] }
    (s.setReport { s.report with phase := .produce })

/-- R173: when the writer is idle, it takes up the oldest staged report that has room (log 17). -/
def writerBegin (s : State) : State :=
  if s.report.phase = .idle then
    let d := dropFull s.report.freeRecords s.report.staging s.report.dropped
    enterRecord 0 (s.setReport { s.report with staging := d.1, dropped := d.2 })
  else s

/-- R173: after the records, the dropped count when it differs from the value last written, then produce. -/
def afterRecords (s : State) : State :=
  if s.report.dropped = s.report.lastDropped then enterProduce s else enterDropped s

/-- R173: the report being written leaves the queue, and the writer goes on with the next. -/
def writerNext (s : State) : State :=
  writerBegin (s.setReport { s.report with staging := s.report.staging.tail, phase := .idle })

/-- R168 step 5: the write of 0 to header word 0, the second of START's header writes. -/
def enterStartProduce (s : State) : State :=
  enterRequest { requester := .report, addr := s.reportBase, xfer := .write [0] }
    (s.setReport { s.report with phase := .startProduce })

/-- R173, R31: an access of the report writer ended NO-RESPONSE: the report is dropped and counted. A
header write of START counts as a dropped report, and no staged report leaves the queue; the second header
write is entered when the first ends, however it ends (R168 step 5, R26). -/
def writerFailed (s : State) : State :=
  match s.report.phase with
  | .idle => s
  | .startDropped => enterStartProduce (s.setReport { s.report with dropped := s.report.dropped + 1 })
  | .startProduce =>
    writerBegin (s.setReport { s.report with dropped := s.report.dropped + 1, phase := .idle })
  | .record _ => writerNext (s.setReport { s.report with dropped := s.report.dropped + 1 })
  | .dropped _ => writerNext (s.setReport { s.report with dropped := s.report.dropped + 1 })
  | .produce => writerNext (s.setReport { s.report with dropped := s.report.dropped + 1 })

/-- R168 step 5, R173: an access of the report writer ended OK: the next step is entered. -/
def writerDone (s : State) : State :=
  match s.report.phase with
  | .idle => s
  | .startDropped => enterStartProduce s
  | .startProduce => writerBegin (s.setReport { s.report with phase := .idle })
  | .record i =>
    if i + 1 < (match s.report.staging with | r :: _ => r.records | [] => 0) then enterRecord (i + 1) s
    else afterRecords s
  | .dropped value => enterProduce (s.setReport { s.report with lastDropped := value })
  | .produce => writerNext (s.setReport { s.report with produce := s.report.nextProduce })

/-! ## Hand-over (R172) -/

/-- R172: a report is taken in RUNNING, and the STOPPED report in STOPPING. -/
def State.takesReport (s : State) (c : Cause) : Bool :=
  s.unit.partState == .running || (s.unit.partState == .stopping && c == .stopped)

/-- R172: the report is staged, or dropped and counted when the queue is full; one that is not taken
changes nothing. -/
def handReport (r : Report) (s : State) : State :=
  if s.takesReport r.cause then
    if s.report.staging.length < Config.stagingCap then
      writerBegin (s.setReport { s.report with staging := s.report.staging ++ [r] })
    else s.setReport { s.report with dropped := s.report.dropped + 1 }
  else s

/-! ## The work of a lane -/

/-- What a lane's work asks of the shared units, in order. -/
inductive Effect where
  | report (r : Report)
  /-- A burst of the lane's script fetch (R124). -/
  | burst (addr : Addr) (words : Nat)
  deriving DecidableEq, Repr

/-- A lane at work, with the effects asked for so far. -/
structure Work where
  lane : Lane
  out : List Effect
  deriving DecidableEq, Repr

/-- What a lane's work reads of the rest of the part: the lane's id, F, the lane's CUE window, the
override's two sources (R156), and which of two blocks' reports of one event is staged first (a free
value, R172, log 4). -/
structure LaneCtx where
  id : LaneId
  now : Field
  cueWindow : Option Window
  ovrLevel : Bool
  softFlag : Bool
  scriptFirst : Bool
  deriving DecidableEq, Repr

/-- The effective override as a lane's work sees it. -/
def LaneCtx.overrideOn (c : LaneCtx) : Bool := c.ovrLevel || c.softFlag

/-- A report of the lane that names a field. -/
def Work.reportAt (w : Work) (c : LaneCtx) (at_ : Field) (cause : Cause) (detail : List Item) : Work :=
  let r : Report :=
    { cause := cause, lane := .lane c.id, ringSlot := none, field := at_, detail := detail }
  { w with out := w.out ++ [.report r] }

/-- A report of the lane at the present field. -/
def Work.report (w : Work) (c : LaneCtx) (cause : Cause) (detail : List Item) : Work :=
  w.reportAt c c.now cause detail

/-- The lane's counters changed. -/
def Lane.count (x : Lane) (f : Counters → Counters) : Lane :=
  { x with hold := { x.hold with counters := f x.hold.counters } }

/-- The lane's counters changed. -/
def Work.count (w : Work) (f : Counters → Counters) : Work := { w with lane := w.lane.count f }

/-- What the work of lane `l` reads of the part. -/
def State.laneCtx (s : State) (l : LaneId) : LaneCtx :=
  { id := l, now := s.timer.f, cueWindow := s.windowOf .cue (some l), ovrLevel := s.timer.ovr.taken,
    softFlag := s.unit.softOverride, scriptFirst := Config.freeSwap s.freeIndex }

/-- One effect of lane `l`'s work on the shared units. -/
def applyEffect (l : LaneId) (s : State) : Effect → State
  | .report r => handReport r s
  | .burst addr words => enterRequest { requester := .fetch l, addr := addr, xfer := .read words } s

/-- The lane's new state, and its effects in order. -/
def finishWork (l : LaneId) (w : Work) (s : State) : State :=
  w.out.foldl (applyEffect l) (s.setLane l w.lane)

/-- A piece of work of lane `l`; the counter of open orders goes on (log 4). -/
def runLane (l : LaneId) (f : LaneCtx → Work → Work) (s : State) : State :=
  finishWork l (f (s.laneCtx l) { lane := s.lanes.get l, out := [] }) { s with freeIndex := s.freeIndex + 1 }

end Sys2Proof.Machine
end

