-- ==== Sys2Proof/Machine/Follower.lean ====
section
/-!
DEFINITION. The Script Follower (chapter 8).
-/
namespace Sys2Proof.Machine

/-- Causes of a SCRIPT-STATE report (12.5). -/
inductive ScriptCause where
  | lock | ended | misses | fetchError | malformed | flush | hold
  deriving DecidableEq, Repr

/-- Their codes (12.5). -/
def ScriptCause.code : ScriptCause → Nat
  | .lock => 1
  | .ended => 2
  | .misses => 3
  | .fetchError => 4
  | .malformed => 5
  | .flush => 6
  | .hold => 7

/-- The lane's follower replaced. -/
def Work.setFollower (w : Work) (f : Follower) : Work := { w with lane := { w.lane with follower := f } }

/-- R137: the SCRIPT-STATE report of a change from `old` to the follower's state as it now stands.
`index` is the failing index of FETCH-ERROR and MALFORMED. -/
def scriptReport (c : LaneCtx) (old : FollowState) (cause : ScriptCause) (index : Option Nat) (w : Work) :
    Work :=
  let f := w.lane.follower
  w.report c .scriptState
    ([codeItem old.code, codeItem f.state.code, codeItem cause.code,
      halfItem (match f.cue with | some q => q.first | none => 0),
      halfItem (match f.cue with | some q => q.count | none => 0), halfItem f.cursor,
      .whole f.skipCount, .whole f.starvedCount] ++
     (match index with | some i => [halfItem i] | none => []))

/-! ## Fetching (R124 to R127) -/

/-- The words of a burst of one or two script records (R124). -/
def burstWords (records : Nat) : Nat := 8 * records

/-- The burst that reads `n` records from index `i` is asked for. -/
def askBurst (base : Addr) (i n : Nat) (w : Work) : Work :=
  { w with out := w.out ++ [.burst (base + BitVec.ofNat 28 (32 * i)) (burstWords n)] }

/-- R124: a fetch of `m` records from the fetch point; its first burst has two records, or one. -/
def requestFetch (base : Addr) (m : Nat) (w : Work) : Work :=
  let f := w.lane.follower
  let n := min 2 m
  askBurst base f.fetchPoint n
    (w.setFollower { f with fetch := some { first := f.fetchPoint, records := n, left := m - n,
                                            overtaken := false } })

/-- R124: the refill test, and the fetch it requests. -/
def refill (c : LaneCtx) (w : Work) : Work :=
  let f := w.lane.follower
  match f.cue, c.cueWindow with
  | some q, some win =>
    if (f.state = .cued || f.state = .locked) && f.unconsumed ≤ 8 && f.fetchPoint < q.last &&
        f.fetch = none then
      requestFetch win.base (min Config.fetchRecords (q.last - f.fetchPoint)) w
    else w
  | _, _ => w

/-- The fetch in flight, if any, is overtaken (R127). -/
def Follower.overtake (f : Follower) : Follower :=
  { f with fetch := f.fetch.map fun x => { x with overtaken := true } }

/-- R127: a restart at index `i`. -/
def restart (c : LaneCtx) (i : Nat) (w : Work) : Work :=
  refill c (w.setFollower { w.lane.follower.overtake with buffer := [], cursor := i, fetchPoint := i })

/-- R126: the follower goes to FAULT, with its report. -/
def fetchFault (c : LaneCtx) (cause : ScriptCause) (index : Nat) (w : Work) : Work :=
  let f := w.lane.follower
  scriptReport c f.state cause (some index)
    (w.setFollower { f with state := .fault, buffer := [], seek := none, missRun := 0, fetch := none })

/-- The records of a burst: eight words each. -/
def burstRecords (n : Nat) (data : List Word) : List (Option ScriptRec) :=
  (List.range n).map fun k => readScript ((data.drop (8 * k)).take 8)

/-- R125: the records of a burst are all well formed, or the position of the first that is not. -/
def wellFormedPrefix : List (Option ScriptRec) → Nat → Except Nat (List ScriptRec)
  | [], _ => .ok []
  | none :: _, k => .error k
  | some r :: rest, k =>
    match wellFormedPrefix rest (k + 1) with
    | .ok rs => .ok (r :: rs)
    | .error j => .error j

/-- R125: a burst of a fetch not overtaken ended OK with its data: its records are placed, and the next
burst is entered or the fetch ends; a malformed record faults the fetch. -/
def burstPlaced (c : LaneCtx) (x : Fetch) (data : List Word) (w : Work) : Work :=
  match wellFormedPrefix (burstRecords x.records data) 0 with
  | .error k => fetchFault c .malformed (x.first + k) w
  | .ok rs =>
    let f := w.lane.follower
    let placed := { f with buffer := f.buffer ++ rs, fetchPoint := f.fetchPoint + rs.length }
    let next := x.first + x.records
    let n := min 2 x.left
    match x.left, c.cueWindow with
    | _ + 1, some win =>
      refill c (askBurst win.base next n
        (w.setFollower { placed with fetch := some { first := next, records := n, left := x.left - n,
                                                     overtaken := false } }))
    | _, _ => refill c (w.setFollower { placed with fetch := none })

/-- The end of a burst of the lane's fetch (R125 to R127): data, or none for DATA-ERROR and NO-RESPONSE. -/
def burstEnd (c : LaneCtx) (data : Option (List Word)) (w : Work) : Work :=
  match w.lane.follower.fetch with
  | none => w
  | some x =>
    if x.overtaken then refill c (w.setFollower { w.lane.follower with fetch := none })
    else match data with
      | some ws => burstPlaced c x ws w
      | none => fetchFault c .fetchError x.first w

/-! ## The cursor (R123) -/

/-- The buffer's entries below an index are dropped (R123). -/
def Follower.dropBelow (f : Follower) (i : Nat) : Follower :=
  { f with buffer := f.buffer.drop (i - f.base) }

/-- The cursor moves forward to `i`, and the entries below it are dropped. -/
def Follower.advance (f : Follower) (i : Nat) : Follower := { f.dropBelow i with cursor := i }

/-- The end of the cued block; with no cue, nothing lies inside a block. -/
def Follower.blockEnd (f : Follower) : Nat :=
  match f.cue with
  | some q => q.last
  | none => 0

/-- R134: when the cursor has reached the end of the block, the follower enters ENDED. -/
def endIfReached (c : LaneCtx) (w : Work) : Work :=
  let f := w.lane.follower
  if f.cursor = f.blockEnd then
    scriptReport c f.state .ended none (w.setFollower { f with state := .ended })
  else w

/-! ## Comparison (R128 to R133) -/

/-- What an index gives a comparison with key `k`. -/
inductive Look where
  /-- Buffered with the key. -/
  | hit (r : ScriptRec)
  /-- Buffered with another key, or at or beyond the end of the block. -/
  | pass
  /-- Inside the block and not buffered. -/
  | lacking
  deriving DecidableEq, Repr

/-- One index looked at (R128). -/
def Follower.look (f : Follower) (k : Half) (i : Nat) : Look :=
  if i < f.blockEnd then
    match f.buffered i with
    | some r => if r.key = k then .hit r else .pass
    | none => .lacking
  else .pass

/-- What a scan of indices finds. -/
inductive Scan where
  | found (offset : Nat) (r : ScriptRec)
  | starved
  | missed
  deriving DecidableEq, Repr

/-- Indices from `i` on, `n` of them, in order: the first hit, or a needed index not buffered, or neither
(R128, R131). `j` is the offset of `i` from the first index. -/
def Follower.scan (f : Follower) (k : Half) : Nat → Nat → Nat → Scan
  | 0, _, _ => .missed
  | n + 1, i, j =>
    match f.look k i with
    | .hit r => .found j r
    | .lacking => .starved
    | .pass => f.scan k n (i + 1) (j + 1)

/-- R128: a starved token changes only the starved count. -/
def starve (w : Work) : Work :=
  w.setFollower { w.lane.follower with starvedCount := w.lane.follower.starvedCount + 1 }

/-- R129 step 2: seeking with no run active. -/
def seekStart (k : Half) (w : Work) : Work :=
  let f := w.lane.follower
  match f.scan k 8 f.cursor 0 with
  | .found j _ => w.setFollower { f with seek := some { candidate := f.cursor + j + 1, run := 1 } }
  | .starved => starve w
  | .missed => w

/-- R130: the follower locks; the cursor becomes the index after the third matched record. -/
def lockAt (c : LaneCtx) (i : Nat) (w : Work) : Work :=
  let f := w.lane.follower
  refill c (endIfReached c
    (scriptReport c f.state .lock none
      (w.setFollower { f.advance i with state := .locked, seek := none, missRun := 0 })))

/-- R129: a non-neutral token in CUED. A run that ends at step 1 stays ended, also when step 2 starves
(log 12). -/
def seekToken (c : LaneCtx) (k : Half) (w : Work) : Work :=
  let f := w.lane.follower
  match f.seek with
  | none => seekStart k w
  | some x =>
    match f.look k x.candidate with
    | .pass => seekStart k (w.setFollower { f with seek := none })
    | .lacking => starve w
    | .hit _ =>
      if x.run + 1 ≥ 3 then lockAt c (x.candidate + 1) w
      else w.setFollower { f with seek := some { candidate := x.candidate + 1, run := x.run + 1 } }

/-- R133: a missed token; the fourth in a row loses the place. -/
def missToken (c : LaneCtx) (w : Work) : Work :=
  let f := w.lane.follower
  if f.missRun + 1 ≥ 4 then
    scriptReport c f.state .misses none
      (w.setFollower { f with state := .cued, missRun := 0, seek := none })
  else w.setFollower { f with missRun := f.missRun + 1 }

/-- A token's text, flags and script index, as step 2 of admission leaves them (R91, R132). -/
structure Shown where
  text : List Half
  newline : Bool
  speaker : Bool
  script : Option Nat
  deriving DecidableEq, Repr

/-- R132: a match at offset `j`: the token takes the record's text and flags, and the cursor moves past it. -/
def matchToken (c : LaneCtx) (t : Shown) (j : Nat) (r : ScriptRec) (w : Work) : Work × Shown :=
  let f := w.lane.follower
  let i := f.cursor + j
  (endIfReached c (refill c
    (w.setFollower { f.advance (i + 1) with
      missRun := 0, skipCount := f.skipCount + BitVec.ofNat 32 j })),
   { text := r.text, newline := t.newline || r.newline, speaker := t.speaker || r.speaker,
     script := some i })

/-- R131: a non-neutral token in LOCKED. -/
def lockedToken (c : LaneCtx) (k : Half) (t : Shown) (w : Work) : Work × Shown :=
  let f := w.lane.follower
  match f.scan k 4 f.cursor 0 with
  | .found j r => matchToken c t j r w
  | .starved => (starve w, t)
  | .missed => (missToken c w, t)

/-- R128: step 2 of admission. -/
def compareToken (c : LaneCtx) (t : Shown) (w : Work) : Work × Shown :=
  let k := matchKey t.text
  if k = 0 then (w, t)
  else match w.lane.follower.state with
    | .none => (w, t)
    | .cued => (seekToken c k w, t)
    | .locked => lockedToken c k t w
    | .ended => (w, t)
    | .fault => (w, t)

/-! ## Other events (R121, R122, R135, R136) -/

/-- A script index taken away (R121 step 2). -/
def Tok.strip (t : Tok) : Tok := { t with script := none }

/-- A body's script index taken away. -/
def Body.strip : Body → Body
  | .token t => .token t.strip
  | .marker c0 c1 => .marker c0 c1

/-- R121 step 2: every token of the lane loses its script index. -/
def Lane.stripScripts (x : Lane) : Lane :=
  { x with
    hold := { x.hold with queue := x.hold.queue.map Tok.strip },
    composer := { x.composer with
      emission := x.composer.emission.map fun e => { e with body := e.body.strip },
      rows := { x.composer.rows with
        spans := x.composer.rows.spans.map fun p => { p with copy := p.copy.strip } } } }

/-- R121: an accepted CUE. -/
def acceptCue (c : LaneCtx) (first count : Nat) (w : Work) : Work :=
  let x := w.lane.stripScripts
  let f := x.follower
  restart c first
    { w with lane := { x with follower :=
      { f with cue := some { first := first, count := count }, state := .cued, seek := none, missRun := 0,
               skipCount := 0, starvedCount := 0 } } }

/-- R122: an UNCUE. -/
def acceptUncue (w : Work) : Work :=
  let f := w.lane.follower
  if f.state = .none then w
  else w.setFollower { f.overtake with state := .none, cue := none, buffer := [], seek := none, missRun := 0,
                                       cursor := 0 }

/-- R135: a FLUSH, or the start of a hard hold. -/
def unlockFollower (c : LaneCtx) (cause : ScriptCause) (w : Work) : Work :=
  let f := w.lane.follower
  if f.state = .locked then
    scriptReport c .locked cause none (w.setFollower { f with state := .cued, missRun := 0, seek := none })
  else w.setFollower { f with missRun := 0, seek := none }

/-- R136: a correction sets the cursor back to `i`. -/
def stepBack (c : LaneCtx) (i : Nat) (w : Work) : Work :=
  restart c i (w.setFollower { w.lane.follower with missRun := 0 })

end Sys2Proof.Machine
end

