-- ==== Sys2Proof/Machine/Composer.lean ====
section
/-!
DEFINITION. The Page Composer (chapter 9): emission entries, row image, cells, compositions, swaps and
openings.
-/
namespace Sys2Proof.Machine

/-- The lane's composer replaced. -/
def Work.setComposer (w : Work) (x : Composer) : Work := { w with lane := { w.lane with composer := x } }

/-! ## Entries (R140) -/

/-- The placement text of a body with speaker-marker characters. -/
def Body.placement (b : Body) (spk : Half × Half) : List Half :=
  match b with
  | .token t => if t.speaker then spk.1 :: spk.2 :: 0x20 :: t.text else t.text
  | .marker c0 c1 => [c0, c1]

/-- The length of the placement text, which does not depend on the marker's characters. -/
def Body.placementLength (b : Body) : Nat := (b.placement (0, 0)).length

/-- R94: an uncomposed TOKEN entry. -/
def tokenEntry (t : Tok) : Entry :=
  { body := .token t, composed := 0, split := false, cleared := false, spk := (0, 0) }

/-- R114: an uncomposed MARKER entry. -/
def markerEntry (m : Half × Half) : Entry :=
  { body := .marker m.1 m.2, composed := 0, split := false, cleared := false, spk := (0, 0) }

/-- The number of TOKEN entries (R101). -/
def tokenCount (es : List Entry) : Nat := es.countP fun e => e.body.tok?.isSome

/-! ## The row image (R141, R146) -/

/-- An entry after the row image is emptied: what was placed of it is gone from the screen (R109, R144,
log 13). -/
def Entry.afterEmptying (e : Entry) : Entry :=
  if e.composed = 0 then e else { e with cleared := true, split := false }

/-- R141: the row image is emptied, with an erase debt of 0 and a pending CLEAR. -/
def Composer.emptyRows (x : Composer) : Composer :=
  { x with rows := .empty, eraseDebt := 0, pendingClear := true, emission := x.emission.map Entry.afterEmptying }

/-- R146: a NEWROW rolls the rows up; the top row is dropped beyond R rows. -/
def Composer.rollUp (x : Composer) : Composer :=
  let above := x.rows.bottom :: x.rows.above
  { x with rows :=
      { bottom := [], above := if above.length + 1 > x.r then above.dropLast else above, spans := [],
        openSep := false } }

/-! ## Placing cells (R144, R145) -/

/-- The lead of an entry (R144); `begin` stands for nothing and for the open separator. -/
inductive Lead where
  | begin
  | separator
  | newrow
  deriving DecidableEq, Repr

/-- The entry asks for a new row: a TOKEN carrying NEWLINE or SPEAKER (R144). -/
def Body.wantsRow : Body → Bool
  | .token t => t.newline || t.speaker
  | .marker _ _ => false

/-- R144: the lead of an entry about to be begun. -/
def Composer.lead (x : Composer) (b : Body) : Lead :=
  let col := x.rows.column
  let p := b.placementLength
  if col = 0 then .begin
  else if b.wantsRow then .newrow
  else if x.rows.openSep then (if col + p ≤ x.w then .begin else .newrow)
  else if col + 1 + p ≤ x.w then .separator else .newrow

/-- The last span made one column longer (R145). -/
def lengthenLast : List Span → List Span
  | [] => []
  | [p] => [{ p with length := p.length + 1 }]
  | p :: ps => p :: lengthenLast ps

/-- What a placed cell does beside the cell: the composer, and whether a TOKEN entry left the queue. -/
structure Placed where
  composer : Composer
  cell : Cell
  emitted : Bool
  deriving DecidableEq, Repr

/-- R145: the next character of the entry at the head is placed; `newSpan` when it is the first of the
entry on this row. -/
def placeChar (x : Composer) (e : Entry) (rest : List Entry) (newSpan continues : Bool) : Placed :=
  let ch := (e.body.placement e.spk).getD e.composed 0x20
  let span : Span :=
    { start := x.rows.column, length := 1, leadSep := x.rows.openSep, continues := continues, copy := e.body }
  let e' := { e with composed := e.composed + 1 }
  let finished := e'.composed ≥ e.body.placementLength
  { composer :=
      { x with
        rows := { x.rows with
          bottom := x.rows.bottom ++ [ch],
          spans := if newSpan then x.rows.spans ++ [span] else lengthenLast x.rows.spans,
          openSep := false },
        emission := if finished then rest else e' :: rest },
    cell := .char ch,
    emitted := finished && e.body.tok?.isSome }

/-- R144: an entry whose placed characters were emptied away is begun afresh. -/
def Entry.afresh (e : Entry) : Entry :=
  if e.composed ≠ 0 ∧ e.cleared = true then { e with composed := 0, cleared := false, split := false } else e

/-- R144, R145: the next cell for the head entry. -/
def nextCell (x : Composer) (head : Entry) (rest : List Entry) : Placed :=
  let e := head.afresh
  if e.composed = 0 then
    match x.lead e.body with
    | .begin => placeChar x { e with spk := x.spkMarker } rest true false
    | .separator =>
      { composer :=
          { x with
            rows := { x.rows with bottom := x.rows.bottom ++ [0x20], openSep := true },
            emission := e :: rest },
        cell := .char 0x20, emitted := false }
    | .newrow => { composer := { x.rollUp with emission := e :: rest }, cell := .newrow, emitted := false }
  else if x.rows.column ≥ x.w then
    { composer := { x.rollUp with emission := { e with split := true } :: rest }, cell := .newrow,
      emitted := false }
  else placeChar x e rest (x.rows.column == 0) true

/-- A fresh composition in progress. -/
structure Composing where
  composer : Composer
  counters : Counters
  cells : List Cell
  deriving DecidableEq, Repr

/-- R143 step 4: cells for the entries of the emission queue, while the budget lasts. -/
def placeEntries : Nat → Composing → Composing
  | 0, g => g
  | n + 1, g =>
    match g.composer.emission with
    | [] => g
    | e :: rest =>
      let p := nextCell g.composer e rest
      placeEntries n
        { composer := p.composer,
          counters := if p.emitted
            then { g.counters with queued := g.counters.queued - 1, emitted := g.counters.emitted + 1 }
            else g.counters,
          cells := g.cells ++ [p.cell] }

/-- R143 step 1: the pending CLEAR. -/
def placeClear (g : Composing) : Composing :=
  if g.composer.pendingClear && 1 ≤ g.composer.c then
    { g with composer := { g.composer with pendingClear := false }, cells := g.cells ++ [.clear] }
  else g

/-- R143 step 2: ERASE cells against the debt. -/
def placeErases (g : Composing) : Composing :=
  let n := min g.composer.eraseDebt (g.composer.c - g.cells.length)
  { composer := { g.composer with eraseDebt := g.composer.eraseDebt - n },
    counters := { g.counters with erasedCells := g.counters.erasedCells + BitVec.ofNat 32 n },
    cells := g.cells ++ List.replicate n .erase }

/-- R143: the cells of a fresh composition. -/
def freshCells (state : LaneState) (x : Composer) (k : Counters) : Composing :=
  let g := placeClear { composer := x, counters := k, cells := [] }
  if state = .run then
    let g2 := placeErases g
    if g2.composer.eraseDebt = 0 then placeEntries (g2.composer.c - g2.cells.length) g2 else g2
  else g

/-! ## Compositions (R142, R147, R150, R151) -/

/-- The health a packet carries for a slot: none for an empty slot. -/
def PenSlot.shownHealth (p : PenSlot) : Option Health := if p.isEmpty then none else some p.health

/-- Table 9-1: the contents of NEXT as the lane stands after the composition. -/
def Lane.packet (x : Lane) (target : Field) (repeatFlag twinFlag : Bool) (cells : List Cell)
    (budget : Nat) : Packet :=
  Packet.sealed
    { generation := x.composer.generation, target := target, repeatFlag := repeatFlag, twinFlag := twinFlag,
      cells := cells, laneState := x.hold.state, column := x.composer.rows.column,
      holdDepth := x.hold.queue.length, emissionDepth := x.composer.emission.length,
      l := x.tracker.l, d := x.tracker.d, follow := x.follower.state, cursor := x.follower.cursor,
      floorSlot := x.pens.floorSlot, healthA := x.pens.slots.a.shownHealth,
      healthB := x.pens.slots.b.shownHealth, check := 0, budget := budget }

/-- R142, R147: the composition's packet placed in NEXT, with the next generation and the composed mark. -/
def finishComposition (target : Field) (repeatFlag twinFlag twin : Bool) (cells : List Cell) (budget : Nat)
    (w : Work) : Work :=
  let x := { w.lane with composer := { w.lane.composer with generation := w.lane.composer.generation + 1 } }
  w.setComposer
    { x.composer with next := x.packet target repeatFlag twinFlag cells budget, nextTwin := twin,
                      composed := true }

/-- R143: a fresh composition. -/
def composeFresh (target : Field) (w : Work) : Work :=
  let g := freshCells w.lane.hold.state w.lane.composer w.lane.hold.counters
  finishComposition target false false false g.cells w.lane.composer.c
    ((w.setComposer g.composer).count fun _ => g.counters)

/-- R151: a twin: a copy of ACTIVE's cells, drawing nothing. -/
def composeTwin (target : Field) (w : Work) : Work :=
  let a := w.lane.composer.active
  finishComposition target a.repeatFlag true true a.cells a.budget w

/-- R150: ACTIVE is missed, and NEXT repeats it. It begins a pair in field-repeat mode (R151, log 14). -/
def composeRepeat (target : Field) (w : Work) : Work :=
  let a := w.lane.composer.active
  finishComposition target true a.twinFlag false a.cells a.budget
    ((w.setComposer { w.lane.composer with missed := true }).count fun k =>
      { k with missedPackets := k.missedPackets + 1 })

/-- R150: an unopened ACTIVE is counted; the third in a row reports INSERTER-ABSENT. -/
def countUnopened (c : LaneCtx) (w : Work) : Work :=
  let x := w.lane.composer
  if x.unopened = 3 then w
  else
    let w1 := w.setComposer { x with unopened := x.unopened + 1 }
    if x.unopened + 1 = 3 then
      w1.report c .inserterAbsent [.half x.active.generation]
    else w1

/-- R150: the judgement of ACTIVE, and the fresh composition or repeat it decides. -/
def composeJudged (c : LaneCtx) (openedMark : Bool) (target : Field) (w : Work) : Work :=
  if openedMark then composeFresh target w
  else if w.lane.composer.active.cells = [] then composeFresh target (countUnopened c w)
  else composeRepeat target (countUnopened c w)

/-- R147, R150, R151: one composition of NEXT. -/
def compose (c : LaneCtx) (fieldRepeat : Bool) (target : Field) (parity : Parity) (w : Work) : Work :=
  let x := w.lane.composer
  if fieldRepeat then
    if parity = .even && !x.activeTwin then composeTwin target w
    else composeJudged c x.pairOpened target w
  else composeJudged c x.opened target w

/-- R147: COMPOSE; one that finds the composed mark set is not taken. -/
def takeCompose (fieldRepeat : Bool) (parity : Parity) (c : LaneCtx) (w : Work) : Work :=
  if w.lane.composer.composed then w else compose c fieldRepeat (c.now + 1) parity w

/-- R148: NEXT becomes ACTIVE. The pair-opened mark is cleared when the first packet of a pair becomes
ACTIVE (R151). -/
def swap (fieldRepeat : Bool) (w : Work) : Work :=
  let x := w.lane.composer
  w.setComposer
    { x with
      active := x.next, activeTwin := x.nextTwin, opened := false, missed := false, composed := false,
      pairOpened := if fieldRepeat && !x.nextTwin then false else x.pairOpened }

/-- R147, R148: FIELD-START at the composer: the composition owed, if any, then the swap. -/
def composerFieldStart (fieldRepeat : Bool) (parity : Parity) (c : LaneCtx) (w : Work) : Work :=
  swap fieldRepeat (if w.lane.composer.composed then w else compose c fieldRepeat c.now parity w)

/-! ## Openings (R149, R152, R22) -/

/-- R152: the late read of a missed ACTIVE. -/
def lateRead (c : LaneCtx) (w : Work) : Work :=
  let a := w.lane.composer.active
  (w.count fun k => { k with lateReads := k.lateReads + 1 }).report c .lateRead
    [.half a.generation, .whole a.target]

/-- R149, R22: a Port V read of word 0 of the AIR window. -/
def openActive (fieldRepeat : Bool) (c : LaneCtx) (w : Work) : Work :=
  let x := w.lane.composer
  let w1 := w.setComposer
    { x with latch := some x.active, opened := true, pairOpened := fieldRepeat || x.pairOpened, unopened := 0 }
  let w2 := if x.unopened = 3 then w1.report c .inserterBack [.half x.active.generation] else w1
  if x.missed then lateRead c w2 else w2

/-- R153: the composer's parameters of a LANE-SET. -/
def setComposerParams (p : LaneParams) (w : Work) : Work :=
  let x := w.lane.composer
  let y := if p.r = x.r ∧ p.w = x.w then x else x.emptyRows
  w.setComposer { y with c := p.c, r := p.r, w := p.w, corrMarker := p.corrMarker, spkMarker := p.spkMarker }

end Sys2Proof.Machine
end

