-- ==== Sys2Proof/Machine/Tracker.lean ====
section
/-!
DEFINITION. The Latency Tracker (chapter 5).
-/
namespace Sys2Proof.Machine

/-- The lane's tracker replaced. -/
def Work.setTracker (w : Work) (t : Tracker) : Work := { w with lane := { w.lane with tracker := t } }

/-- Onsets given up, counted (R100). -/
def Work.unmatched (w : Work) (n : Nat) : Work :=
  w.count fun k => { k with unmatchedOnsets := k.unmatchedOnsets + BitVec.ofNat 32 n }

/-- R74: a taken rise on the lane's VA line. -/
def enterOnset (c : LaneCtx) (w : Work) : Work :=
  let t := w.lane.tracker
  if w.lane.hold.state = .off then w
  else if t.onsets.getLast? = some c.now then w
  else if t.onsets.length < Config.onsetCap then w.setTracker { t with onsets := t.onsets ++ [c.now] }
  else (w.setTracker { t with onsets := t.onsets.tail ++ [c.now] }).unmatched 1

/-- The difference of two numbers, taken without sign. -/
def apart (x y : Nat) : Nat := if x ≤ y then y - x else x - y

/-- R78 step 1: the onset is earlier than `a` by more than Lmax. -/
def tooOld (lmax : Nat) (a o : Field) : Bool := earlier o a && lmax < since o a

/-- R78 step 2: the position of the onset, among those earlier than `a`, whose implied latency lies nearest
`l`; the older of two equally near. `i` is the position of the list's first entry. -/
def nearest (a : Field) (l : Nat) : List Field → Nat → Option (Nat × Nat)
  | [], _ => none
  | o :: os, i =>
    let later := nearest a l os (i + 1)
    if earlier o a then
      let near := apart (since o a) l
      match later with
      | some (j, d) => if d < near then some (j, d) else some (i, near)
      | none => some (i, near)
    else later

/-- R79: the estimate after a step. -/
def stepEstimate (s d l m : Nat) : Nat :=
  let diff : Int := (m : Int) - l
  let step : Int := if diff < -(s : Int) then -(s : Int) else if (s : Int) < diff then s else diff
  let x : Int := l + step
  if x < 0 then 0 else if (d : Int) < x then d else x.toNat

/-- R79, R80: a measurement from onset `o` changes or aligns the estimate. -/
def measure (c : LaneCtx) (tag : Half) (a o : Field) (w : Work) : Work :=
  let t := w.lane.tracker
  let m := since o a
  if t.hardAlign then
    let after := min m t.d
    (w.setTracker { t with l := after, hardAlign := false }).report c .latencyAligned
      [.half tag, .whole a, .whole o, halfItem m, halfItem t.l, halfItem after]
  else w.setTracker { t with l := stepEstimate t.s t.d t.l m }

/-- R78: a start token is paired against the onset list. -/
def pairStart (c : LaneCtx) (tag : Half) (a : Field) (w : Work) : Work :=
  let t := w.lane.tracker
  let kept := t.onsets.filter fun o => !tooOld t.lmax a o
  let w1 := (w.setTracker { t with onsets := kept }).unmatched (t.onsets.length - kept.length)
  match nearest a t.l kept 0 with
  | none => w1
  | some (i, _) =>
    measure c tag a (kept.getD i 0)
      ((w1.setTracker { t with onsets := kept.drop (i + 1) }).unmatched i)

/-- R77: the start-token test of a token that is no standby-list entry. -/
def Tracker.isStart (t : Tracker) (gap : Bool) (a : Field) : Bool :=
  gap || t.startPending ||
    (match t.lastArrival with
     | some p => earlier p a && t.g ≤ since p a
     | none => false)

/-- R76, R77, R78: step 1 of admission. -/
def startAndPair (c : LaneCtx) (fromList gap : Bool) (tag : Half) (a : Field) (w : Work) : Work :=
  let w1 :=
    if fromList then w
    else
      let t := w.lane.tracker
      let w0 := w.setTracker { t with startPending := false }
      if t.isStart gap a then pairStart c tag a w0 else w0
  w1.setTracker { w1.lane.tracker with lastArrival := some a }

/-- R83: the due field, a + D - L mod 2^32. -/
def Tracker.due (t : Tracker) (a : Field) : Field := a + BitVec.ofNat 32 t.d - BitVec.ofNat 32 t.l

/-- R73: the tracker's parameters of a LANE-SET; a D below L lowers L to it. -/
def setTrackerParams (p : LaneParams) (w : Work) : Work :=
  let t := w.lane.tracker
  w.setTracker { t with d := p.d, lmax := p.lmax, s := p.s, g := p.g, initial := p.initial, l := min t.l p.d }

/-- R80, R76: both flags set. -/
def Tracker.beginAfresh (t : Tracker) : Tracker := { t with hardAlign := true, startPending := true }

end Sys2Proof.Machine
end

