-- ==== Sys2Proof/Machine/HoldQueue.lean ====
section
/-!
DEFINITION. The Hold Queue (chapter 6): tags, admission, release, pressure, FLUSH and the disabling of a
lane.
-/
namespace Sys2Proof.Machine

/-- The lane's hold block replaced. -/
def Work.setHold (w : Work) (h : Hold) : Work := { w with lane := { w.lane with hold := h } }

/-! ## Tags (R90) -/

/-- The tags of bodies. -/
def bodyTags (bs : List Body) : List Half := bs.filterMap fun b => b.tok?.map (·.tag)

/-- R90: the tags present in the lane. -/
def Lane.presentTags (x : Lane) : List Half :=
  x.hold.queue.map (·.tag) ++ bodyTags (x.composer.emission.map (·.body)) ++
    x.pens.standby.map (·.tag) ++ x.recent.a ++ x.recent.b ++ bodyTags (x.composer.rows.spans.map (·.copy))

/-- R90: the first value from `t` on that is not present; of `n` present tags at most `n` are passed over. -/
def freeTag (present : List Half) : Nat → Half → Half
  | 0, t => t
  | n + 1, t => if present.contains t then freeTag present n (t + 1) else t

/-- R90: a tag is given, and the counter goes past it. -/
def giveTag (w : Work) : Work × Half :=
  let present := w.lane.presentTags
  let t := freeTag present present.length w.lane.hold.tagCounter
  (w.setHold { w.lane.hold with tagCounter := t + 1 }, t)

/-! ## Admission (R91, R93, R96) -/

/-- A token handed to admission. -/
structure Candidate where
  tag : Half
  arrival : Field
  newline : Bool
  speaker : Bool
  gap : Bool
  text : List Half
  deriving DecidableEq, Repr

/-- A tag appended to a recent list; the oldest of 8 leaves first (R93, R104). -/
def pushRecent (tag : Half) (ts : List Half) : List Half :=
  if ts.length < Config.recentCap then ts ++ [tag] else ts.tail ++ [tag]

/-- A token appended to the emission queue (R94). -/
def Composer.append (x : Composer) (t : Tok) : Composer := { x with emission := x.emission ++ [tokenEntry t] }

/-- R91 step 4, R96: the token enters the hold queue, releases its head early, or is discarded. -/
def enterHold (t : Tok) (w : Work) : Work × Bool :=
  let h := w.lane.hold
  let k := { h.counters with admitted := h.counters.admitted + 1 }
  if h.queue.length < Config.holdCap then
    (w.setHold { h with queue := h.queue ++ [t], counters := { k with held := k.held + 1 } }, true)
  else if w.lane.composer.emission.length < Config.emissionCap then
    match h.queue with
    | [] => (w.setHold { h with queue := [t], counters := { k with held := k.held + 1 } }, true)
    | x :: xs =>
      ((w.setComposer (w.lane.composer.append x)).setHold
        { h with queue := xs ++ [t], tallyEarly := h.tallyEarly + 1,
                 counters := { k with queued := k.queued + 1 } }, true)
  else
    (w.setHold
      { h with tallyDiscard := h.tallyDiscard + 1,
               counters := { k with discPressure := k.discPressure + 1 } }, false)

/-- R91: admission of a token of a pen slot; true when it was not discarded. `fromList` marks a
standby-list entry handed over at a transfer. -/
def admitCandidate (c : LaneCtx) (slot : SlotId) (fromList : Bool) (t : Candidate) (w : Work) : Work × Bool :=
  let w1 := startAndPair c fromList t.gap t.tag t.arrival w
  let r := compareToken c { text := t.text, newline := t.newline, speaker := t.speaker, script := none } w1
  let tok : Tok :=
    { tag := t.tag, due := r.1.lane.tracker.due t.arrival, newline := r.2.newline, speaker := r.2.speaker,
      text := r.2.text, script := r.2.script }
  let e := enterHold tok r.1
  ({ e.1 with lane := { e.1.lane with
      recent := e.1.lane.recent.set slot (pushRecent t.tag (e.1.lane.recent.get slot)) } }, e.2)

/-! ## Release (R94, R97) -/

/-- R94: the due heads that the room admits, and the queue they leave. -/
def splitDue (now : Field) : Nat → List Tok → List Tok × List Tok
  | 0, q => ([], q)
  | _, [] => ([], [])
  | n + 1, t :: ts =>
    if notLater t.due now then
      let r := splitDue now n ts
      (t :: r.1, r.2)
    else ([], t :: ts)

/-- R94: release at a FIELD-START of a lane in RUN. -/
def release (c : LaneCtx) (w : Work) : Work :=
  let h := w.lane.hold
  if h.state = .run then
    let x := w.lane.composer
    let r := splitDue c.now (Config.emissionCap - x.emission.length) h.queue
    let n := BitVec.ofNat 32 r.1.length
    (w.setComposer { x with emission := x.emission ++ r.1.map tokenEntry }).setHold
      { h with queue := r.2,
               counters := { h.counters with held := h.counters.held - n, queued := h.counters.queued + n } }
  else w

/-- R97: the OVERRUN report of the field that has ended, and the tally returned to 0. -/
def reportOverrun (c : LaneCtx) (w : Work) : Work :=
  let h := w.lane.hold
  let w1 := w.setHold { h with tallyEarly := 0, tallyDiscard := 0 }
  if 0 < h.tallyDiscard then
    w1.reportAt c (c.now - 1) .overrun
      [halfItem h.tallyDiscard, halfItem h.tallyEarly, halfItem h.queue.length,
       halfItem w.lane.composer.emission.length]
  else w1

/-- R97, R94: the Hold Queue's work at a FIELD-START. -/
def holdFieldStart (c : LaneCtx) (w : Work) : Work := release c (reportOverrun c w)

/-! ## Discards (R98, R160) -/

/-- Where discarded tokens are counted. -/
inductive DiscardCause where
  | flush | override
  deriving DecidableEq, Repr

/-- The number of admitted tokens of both queues. -/
def Lane.queuedTokens (x : Lane) : Nat := x.hold.queue.length + tokenCount x.composer.emission

/-- R98, R160: every hold-queue entry and TOKEN entry moves to its discard counter, MARKER entries are
removed without count, and every standby-list entry is counted standby-discarded. -/
def discardCounts (cause : DiscardCause) (x : Lane) (k : Counters) : Counters :=
  let n := BitVec.ofNat 32 x.queuedTokens
  let k1 := { k with
    held := k.held - BitVec.ofNat 32 x.hold.queue.length,
    queued := k.queued - BitVec.ofNat 32 (tokenCount x.composer.emission),
    standbyDiscarded := k.standbyDiscarded + BitVec.ofNat 32 x.pens.standby.length }
  match cause with
  | .flush => { k1 with discFlush := k1.discFlush + n }
  | .override => { k1 with discOverride := k1.discOverride + n }

/-- The common part of FLUSH (R98) and of a hard hold's start (R160): queues and lists emptied and
counted, row image emptied, pending CLEAR set, recent lists and onset list emptied. -/
def emptyLane (cause : DiscardCause) (w : Work) : Work :=
  let x := w.lane
  { w with lane :=
    { x with
      hold := { x.hold with queue := [], counters := discardCounts cause x x.hold.counters },
      composer := { x.composer with emission := [] }.emptyRows,
      pens := { x.pens with standby := [] },
      recent := ⟨[], []⟩,
      tracker := { x.tracker with onsets := [] } } }

/-- R98: FLUSH of a lane. -/
def flushLane (c : LaneCtx) (w : Work) : Work :=
  let w1 := emptyLane .flush w
  unlockFollower c .flush (w1.setTracker w1.lane.tracker.beginAfresh)

/-- R89: the disabling of a lane. -/
def disableLane (c : LaneCtx) (w : Work) : Work :=
  let w1 := flushLane c w
  w1.setHold { w1.lane.hold with counters := .zero, tallyEarly := 0, tallyDiscard := 0, state := .off }

end Sys2Proof.Machine
end

