-- ==== Sys2Proof/Machine/Pens.lean ====
section
/-!
DEFINITION. The Pen Monitor and Floor Control (chapter 4).
-/
namespace Sys2Proof.Machine

/-- The lane's pens block replaced. -/
def Work.setPens (w : Work) (p : Pens) : Work := { w with lane := { w.lane with pens := p } }

/-- A pen slot of the lane. -/
def Work.slot (w : Work) (k : SlotId) : PenSlot := w.lane.pens.slots.get k

/-- A pen slot of the lane replaced. -/
def Work.setSlot (w : Work) (k : SlotId) (p : PenSlot) : Work :=
  w.setPens { w.lane.pens with slots := w.lane.pens.slots.set k p }

/-- Standby-list entries discarded, counted (R67). -/
def Work.standbyDiscards (w : Work) (n : Nat) : Work :=
  w.count fun k => { k with standbyDiscarded := k.standbyDiscarded + BitVec.ofNat 32 n }

/-! ## Health (R54) -/

/-- Causes of a PEN-HEALTH report (12.5). -/
inductive HealthCause where
  | record | keepalive | restore | penSet
  deriving DecidableEq, Repr

/-- Their codes. -/
def HealthCause.code : HealthCause → Nat
  | .record => 1
  | .keepalive => 2
  | .restore => 3
  | .penSet => 4

/-- R54: a PEN-HEALTH report when the slot's health differs from `old`. -/
def reportHealth (c : LaneCtx) (k : SlotId) (old : Health) (cause : HealthCause) (w : Work) : Work :=
  let p := w.slot k
  if p.health = old then w
  else
    w.report c .penHealth
      [codeItem (slotCode (some k)), .half p.pen, codeItem old.code, codeItem p.health.code,
       codeItem p.fault, codeItem cause.code]

/-- R54: the slot's fault count set; a slot that becomes BARRED has its keepalive run set to 0. -/
def setFault (c : LaneCtx) (k : SlotId) (n : Nat) (cause : HealthCause) (w : Work) : Work :=
  let p := w.slot k
  let run := if healthOf n = .barred ∧ p.health ≠ .barred then 0 else p.keepRun
  reportHealth c k p.health cause (w.setSlot k { p with fault := n, keepRun := run })

/-- R54: a bad record adds 5, up to 200; a BARRED slot keeps its count. -/
def chargeBad (c : LaneCtx) (k : SlotId) (w : Work) : Work :=
  if (w.slot k).health = .barred then w else setFault c k (min 200 ((w.slot k).fault + 5)) .record w

/-- R54: a good record subtracts 1, down to 0; a BARRED slot keeps its count. -/
def chargeGood (c : LaneCtx) (k : SlotId) (w : Work) : Work :=
  if (w.slot k).health = .barred then w else setFault c k ((w.slot k).fault - 1) .record w

/-! ## The floor (R63 to R65) -/

/-- Causes of a FLOOR-CHANGED report (12.5). -/
inductive FloorCause where
  | take | failover | implicit
  deriving DecidableEq, Repr

/-- Their codes. -/
def FloorCause.code : FloorCause → Nat
  | .take => 1
  | .failover => 2
  | .implicit => 3

/-- R65: the standby-list entry is handed to admission: it is of the new floor slot and arrived later than
the reference arrival, or there is no reference arrival. -/
def handsOver (new : SlotId) (reference : Option Field) (e : StandbyEntry) : Bool :=
  e.slot == new &&
    (match reference with
     | some r => earlier r e.arrival
     | none => true)

/-- The entry as a token handed to admission, with its tag. -/
def StandbyEntry.candidate (e : StandbyEntry) : Candidate :=
  { tag := e.tag, arrival := e.arrival, newline := e.newline, speaker := e.speaker, gap := false,
    text := e.text }

/-- A token of the slot is handed to admission: its arrival becomes the slot's last admitted arrival
(R65, R66). -/
def handToAdmission (c : LaneCtx) (k : SlotId) (fromList : Bool) (t : Candidate) (w : Work) : Work × Bool :=
  let r := admitCandidate c k fromList t w
  (r.1.setSlot k { r.1.slot k with lastAdmitted := some t.arrival }, r.2)

/-- R65: one entry of the standby list resolved. -/
def resolveEntry (c : LaneCtx) (new : SlotId) (reference : Option Field) (w : Work) (e : StandbyEntry) :
    Work :=
  if handsOver new reference e then (handToAdmission c new true e.candidate w).1 else w.standbyDiscards 1

/-- R65: the standby list resolved, oldest first. -/
def resolveStandby (c : LaneCtx) (new : SlotId) (w : Work) : Work :=
  let es := w.lane.pens.standby
  let reference := (w.slot (otherSlot new)).lastAdmitted
  es.foldl (resolveEntry c new reference) (w.setPens { w.lane.pens with standby := [] })

/-- A role given to a slot. -/
def Work.setRole (w : Work) (k : SlotId) (r : Role) : Work := w.setSlot k { w.slot k with role := r }

/-- R64: a transfer of the floor to `new`. -/
def transfer (c : LaneCtx) (new : SlotId) (cause : FloorCause) (w : Work) : Work :=
  let old := w.lane.pens.floorSlot
  let es := w.lane.pens.standby
  let reference := (w.slot (otherSlot new)).lastAdmitted
  let handed := es.countP (handsOver new reference)
  let w1 := match old with | some k => w.setRole k .standby | none => w
  let w2 := resolveStandby c new (w1.setRole new .floor)
  let w3 := w2.setTracker { w2.lane.tracker with hardAlign := true }
  let w4 := w3.setPens { w3.lane.pens with floor := .steady }
  w4.report c .floorChanged
    [codeItem cause.code, codeItem (slotCode old),
     .half (match old with | some k => (w.slot k).pen | none => 0),
     codeItem (slotCode (some new)), .half (w.slot new).pen, halfItem handed,
     halfItem (es.length - handed)]

/-- R63: the floor slot vacates. -/
def vacate (c : LaneCtx) (k : SlotId) (w : Work) : Work :=
  let w1 := w.setRole k .standby
  (w1.setPens { w1.lane.pens with floor := .vacant }).report c .floorVacant
    [codeItem (slotCode (some k)), .half (w.slot k).pen]

/-- R62: the failover evaluation. -/
def failover (c : LaneCtx) (w : Work) : Work :=
  if w.lane.hold.state = .off then w
  else match w.lane.pens.floorSlot with
    | none => w
    | some k =>
      let p := w.slot k
      let other := otherSlot k
      if p.health = .barred then
        if (w.slot other).eligible then transfer c other .failover w else vacate c k w
      else if p.failing && (w.slot other).eligible then transfer c other .failover w
      else w

/-! ## FIELD-START (R71) -/

/-- R68: entries whose arrival field is earlier than F less D are pruned. -/
def pruneStandby (c : LaneCtx) (w : Work) : Work :=
  let p := w.lane.pens
  let kept := p.standby.filter fun e => !earlier e.arrival (c.now - BitVec.ofNat 32 w.lane.tracker.d)
  (w.setPens { p with standby := kept }).standbyDiscards (p.standby.length - kept.length)

/-- R57: the silent mark of a non-empty slot unheard for Q fields or more. -/
def PenSlot.markSilent (p : PenSlot) (now : Field) (q : Nat) : PenSlot :=
  if !p.isEmpty && q ≤ since p.lastHeard now then { p with silent := true } else p

/-- R57: both slots. -/
def markSilence (c : LaneCtx) (w : Work) : Work :=
  let p := w.lane.pens
  w.setPens { p with slots := ⟨p.slots.a.markSilent c.now p.q, p.slots.b.markSilent c.now p.q⟩ }

/-- R61: a HANDOVER whose deadline is not later than F lapses. -/
def lapseHandover (c : LaneCtx) (w : Work) : Work :=
  match w.lane.pens.floor with
  | .handover deadline =>
    if notLater deadline c.now then
      let k := w.lane.pens.floorSlot
      (w.setPens { w.lane.pens with floor := .steady }).report c .handoverLapsed
        [codeItem (slotCode k), .half (match k with | some j => (w.slot j).pen | none => 0), .whole deadline]
    else w
  | .steady => w
  | .vacant => w

/-- R71: the Pen Monitor's work at a FIELD-START. -/
def pensFieldStart (c : LaneCtx) (w : Work) : Work :=
  failover c (lapseHandover c (markSilence c (pruneStandby c w)))

/-! ## Tokens and the standby list (R66, R67, R69) -/

/-- R67: a token enters the standby list with the next tag; the oldest of 32 leaves first (log 22). -/
def listToken (k : SlotId) (r : IngestRecord) (w : Work) : Work :=
  let p := w.lane.pens
  let w1 :=
    if p.standby.length < Config.standbyCap then w
    else (w.setPens { p with standby := p.standby.tail }).standbyDiscards 1
  let g := giveTag w1
  let e : StandbyEntry :=
    { tag := g.2, slot := k, arrival := r.arrival, newline := r.newline, speaker := r.speaker,
      text := r.text }
  g.1.setPens { g.1.lane.pens with standby := g.1.lane.pens.standby ++ [e] }

/-- R66, R90: a TOKEN of the floor pen is given its tag and handed to admission. -/
def admitToken (c : LaneCtx) (k : SlotId) (r : IngestRecord) (w : Work) : Work × Bool :=
  let g := giveTag w
  handToAdmission c k false
    { tag := g.2, arrival := r.arrival, newline := r.newline, speaker := r.speaker, gap := r.gap,
      text := r.text } g.1

/-- Disposition details of a TOKEN (Table 12-3). -/
def admittedDetail (admitted : Bool) : Nat := if admitted then 1 else 3

/-- R66: a TOKEN of slot `k`; the detail of its disposition. -/
def tokenEffect (c : LaneCtx) (k : SlotId) (r : IngestRecord) (w : Work) : Work × Nat :=
  if (w.slot k).role = .floor then
    let a := admitToken c k r w
    (a.1, admittedDetail a.2)
  else match w.lane.pens.floor with
    | .vacant =>
      if (w.slot k).eligible then
        let a := admitToken c k r (transfer c k .implicit w)
        (a.1, admittedDetail a.2)
      else (w, 4)
    | .steady => (listToken k r w, 2)
    | .handover _ => (listToken k r w, 2)

/-- The list without the newest `n` entries of a slot (R69); the list comes newest first. -/
def dropNewest (k : SlotId) : Nat → List StandbyEntry → List StandbyEntry
  | 0, es => es
  | _, [] => []
  | n + 1, e :: es => if e.slot = k then dropNewest k n es else e :: dropNewest k (n + 1) es

/-- R69: a CORRECT of count `n` from a STANDBY slot; the number of entries removed. -/
def standbyCorrect (k : SlotId) (n : Nat) (w : Work) : Work × Nat :=
  let p := w.lane.pens
  let kept := (dropNewest k n p.standby.reverse).reverse
  let removed := p.standby.length - kept.length
  ((w.setPens { p with standby := kept }).standbyDiscards removed, removed)

/-! ## OFFER and TAKE (R59, R60) -/

/-- R59: an OFFER of slot `k`: the floor state becomes HANDOVER, or none when it is refused. -/
def offerEffect (c : LaneCtx) (k : SlotId) (w : Work) : Option Work :=
  let p := w.lane.pens
  if (w.slot k).role = .floor then
    match p.floor with
    | .vacant => none
    | .steady => some (w.setPens { p with floor := .handover (c.now + BitVec.ofNat 32 p.takeWindow) })
    | .handover _ => some (w.setPens { p with floor := .handover (c.now + BitVec.ofNat 32 p.takeWindow) })
  else none

/-- The floor pen is silent or SUSPECT (R60). -/
def Pens.floorFailing (p : Pens) : Bool :=
  match p.floorSlot with
  | some k => (p.slots.get k).failing
  | none => false

/-- R60: a TAKE of slot `k` transfers the floor, or none when it is refused. -/
def takeEffect (c : LaneCtx) (k : SlotId) (w : Work) : Option Work :=
  let p := w.lane.pens
  if (w.slot k).role = .floor || !(w.slot k).eligible then none
  else match p.floor with
    | .handover _ => some (transfer c k .take w)
    | .vacant => some (transfer c k .take w)
    | .steady => if p.floorFailing then some (transfer c k .take w) else none

/-! ## Directives (R51, R56) -/

/-- R51: a PEN-SET as asked for. -/
structure PenSetAsk where
  slot : SlotId
  pen : Half
  floor : Bool
  deriving DecidableEq, Repr

/-- R51: the PEN-SET finds the slot BUSY. The role is ignored when the pen id is 0. -/
def penSetBusy (p : Pens) (q : PenSetAsk) : Bool :=
  let s := p.slots.get q.slot
  let o := p.slots.get (otherSlot q.slot)
  (s.role == .floor && q.pen != s.pen) ||
    (s.role == .floor && q.pen != 0 && !q.floor) ||
    (q.pen != 0 && q.floor && o.role == .floor)

/-- R51: the other slot of the lane holds the pen id. -/
def penSetTaken (p : Pens) (q : PenSetAsk) : Bool :=
  q.pen != 0 && (p.slots.get (otherSlot q.slot)).pen == q.pen

/-- R51 steps 1 and 2: what the old pen of the slot leaves behind. -/
def penSetClear (q : PenSetAsk) (w : Work) : Work :=
  let old := w.slot q.slot
  let changes := q.pen != old.pen
  let p := w.lane.pens
  let kept := if old.role = .standby && (changes || (q.pen != 0 && q.floor))
    then p.standby.filter fun e => e.slot != q.slot else p.standby
  let w1 := (w.setPens { p with standby := kept }).standbyDiscards (p.standby.length - kept.length)
  if changes then
    { w1 with lane := { w1.lane with recent := w1.lane.recent.set q.slot [] } }.setSlot q.slot
      { old with lastAdmitted := none }
  else w1

/-- R51 step 3: the slot's new contents. -/
def penSetSlot (c : LaneCtx) (q : PenSetAsk) (old : PenSlot) : PenSlot :=
  if q.pen = 0 then .empty
  else { old with
    pen := q.pen, role := if q.floor then .floor else .standby, fault := 0, base := none, keepRun := 0,
    lastHeard := c.now, silent := false }

/-- R51: an accepted PEN-SET. -/
def acceptPenSet (c : LaneCtx) (q : PenSetAsk) (w : Work) : Work :=
  let old := (w.slot q.slot).health
  let w1 := penSetClear q w
  let w2 := w1.setSlot q.slot (penSetSlot c q (w1.slot q.slot))
  let w3 :=
    if (w2.slot q.slot).role = .floor ∧ w2.lane.pens.floor = .vacant
    then w2.setPens { w2.lane.pens with floor := .steady } else w2
  if (w3.slot q.slot).health = old then w3 else failover c (reportHealth c q.slot old .penSet w3)

/-- R56: a RESTORE of a non-empty slot. -/
def acceptRestore (c : LaneCtx) (k : SlotId) (w : Work) : Work :=
  let p := w.slot k
  let w1 := w.setSlot k { p with fault := 0, keepRun := 0 }
  if p.health = .good then w1 else failover c (reportHealth c k p.health .restore w1)

/-- R72: Q and the take window of a LANE-SET. -/
def setPenParams (p : LaneParams) (w : Work) : Work :=
  w.setPens { w.lane.pens with q := p.q, takeWindow := p.takeWindow }

end Sys2Proof.Machine
end

