-- ==== Sys2Proof/Machine/Corrections.lean ====
section
/-!
DEFINITION. The Correction Unit (chapter 7).
-/
namespace Sys2Proof.Machine

/-! ## Locations (R105) -/

/-- Where a selected tag is found, as far as its retraction goes (R105, R109). -/
inductive Location where
  | hold
  /-- An uncomposed TOKEN entry, or a partly composed one whose characters were emptied away. -/
  | emitFree
  /-- A partly composed entry that is not split, its characters in the last span. -/
  | emitShown
  /-- A partly composed entry that is split. -/
  | emitSplit
  | screen
  | gone
  deriving DecidableEq, Repr

/-- R109: how far an entry has been composed. -/
def Entry.location (e : Entry) : Location :=
  if e.composed = 0 ∨ e.cleared = true then .emitFree else if e.split then .emitSplit else .emitShown

/-- R105: the location of a tag. -/
def Lane.locate (x : Lane) (tag : Half) : Location :=
  if x.hold.queue.any (fun t => t.tag == tag) then .hold
  else match x.composer.emission.find? (fun e => e.body.hasTag tag) with
    | some e => e.location
    | none =>
      if x.composer.rows.spans.any (fun p => !p.continues && p.copy.hasTag tag) then .screen else .gone

/-! ## The course of a correction -/

/-- A correction in progress: the lane's work, how many retractions were reachable and how many not, and
the script indices of the retracted tokens. -/
structure Correcting where
  work : Work
  reachable : Nat
  unreachable : Nat
  scripts : List Nat
  deriving DecidableEq, Repr

/-- The script index of a token, as a list of none or one. -/
def scriptsOf (t : Option Tok) : List Nat :=
  match t with
  | some t => match t.script with | some i => [i] | none => []
  | none => []

/-- R107: the `k` newest tags of the slot's list, newest first, and the list they leave. -/
def selectTags (k : Nat) (recent : List Half) : List Half × List Half :=
  ((recent.reverse).take k, recent.take (recent.length - k))

/-- The first entry of the emission queue with a tag removed. -/
def removeEmission (tag : Half) (es : List Entry) : List Entry := es.eraseP fun e => e.body.hasTag tag

/-- R108: the token is retracted from the hold queue. -/
def retractHold (tag : Half) (g : Correcting) : Correcting :=
  let h := g.work.lane.hold
  { g with
    work := (g.work.setHold { h with queue := h.queue.eraseP fun t => t.tag == tag }).count fun k =>
      { k with held := k.held - 1, retracted := k.retracted + 1 },
    reachable := g.reachable + 1,
    scripts := g.scripts ++ scriptsOf (h.queue.find? fun t => t.tag == tag) }

/-- R109: the token's entry is removed from the emission queue. -/
def retractEmission (tag : Half) (g : Correcting) : Correcting :=
  let x := g.work.lane.composer
  { g with
    work := (g.work.setComposer { x with emission := removeEmission tag x.emission }).count fun k =>
      { k with queued := k.queued - 1, retracted := k.retracted + 1 },
    reachable := g.reachable + 1,
    scripts := g.scripts ++
      scriptsOf ((x.emission.find? fun e => e.body.hasTag tag).bind fun e => e.body.tok?) }

/-- R106 step 2: one selected tag retracted off the screen, counted unreachable, or left for step 3. -/
def retractOff (g : Correcting) (tag : Half) : Correcting :=
  match g.work.lane.locate tag with
  | .hold => retractHold tag g
  | .emitFree => retractEmission tag g
  | .emitShown => g
  | .emitSplit => { g with unreachable := g.unreachable + 1 }
  | .screen => g
  | .gone => { g with unreachable := g.unreachable + 1 }

/-! ## Erasure (R111, R112) -/

/-- A partly composed head entry whose characters are the bottom row's last span. -/
def Composer.shownHead (x : Composer) : Bool :=
  match x.emission with
  | e :: _ => e.composed != 0 && !e.cleared && !x.rows.spans.isEmpty
  | [] => false

/-- The spans of entries that have left the queue: all but the span of a partly composed head. -/
def Composer.settledSpans (x : Composer) : List Span :=
  if x.shownHead then x.rows.spans.dropLast else x.rows.spans

/-- The span of the partly composed head, if it has one. -/
def Composer.headSpan (x : Composer) : List Span :=
  if x.shownHead then x.rows.spans.drop (x.rows.spans.length - 1) else []

/-- The span is of a selected token. -/
def Span.selected (tags : List Half) (p : Span) : Bool := tags.any fun t => p.copy.hasTag t

/-- R111 step 1: the first column of the erase range that begins with a span. -/
def Span.rangeStart (p : Span) : Nat := if p.leadSep then p.start - 1 else p.start

/-- The span with the smallest start column. -/
def leftmost : List Span → Option Span
  | [] => none
  | p :: ps =>
    match leftmost ps with
    | some q => if q.start < p.start then some q else some p
    | none => some p

/-- R112: what a span returns to the queue as: an uncomposed entry rebuilt from its copy. -/
def Span.returned (p : Span) : Entry :=
  { body := p.copy, composed := 0, split := false, cleared := false, spk := (0, 0) }

/-- R112: a partly composed head that is not retracted is sent whole again. -/
def resetHead : List Entry → List Entry
  | [] => []
  | e :: es => { e with composed := 0, split := false, cleared := false } :: es

/-- R111, R112: the erasure made. `shown` are the selected tags with a retraction on the screen; the
range begins at span `p`. -/
def erase (shown : List Half) (p : Span) (g : Correcting) : Correcting :=
  let x := g.work.lane.composer
  let first := p.rangeStart
  let inRange := x.settledSpans.filter fun q => p.start ≤ q.start
  let gone := inRange.filter (Span.selected shown)
  let returns := inRange.filter fun q => !q.selected shown
  let headShown := x.headSpan.any (Span.selected shown)
  let headInRange := x.headSpan.any fun q => p.start ≤ q.start
  let queue :=
    if headShown then x.emission.tail else if headInRange then resetHead x.emission else x.emission
  let tokenReturns := BitVec.ofNat 32 (returns.countP fun q => q.copy.tok?.isSome)
  let goneCount := BitVec.ofNat 32 gone.length
  let headCount : Counter := if headShown then 1 else 0
  { g with
    work :=
      (g.work.setComposer
        { x with
          emission := returns.map Span.returned ++ queue,
          eraseDebt := x.eraseDebt + (x.rows.column - first),
          rows := { x.rows with
            bottom := x.rows.bottom.take first,
            spans := x.rows.spans.filter fun q => q.start < p.start,
            openSep := if first < x.rows.column then false else x.rows.openSep } }).count fun k =>
        { k with
          emitted := k.emitted - goneCount - tokenReturns,
          queued := k.queued + tokenReturns - headCount,
          retracted := k.retracted + goneCount + headCount },
    reachable := g.reachable + shown.length,
    scripts := g.scripts ++
      (gone.flatMap fun q => scriptsOf q.copy.tok?) ++
      (if headShown then x.headSpan.flatMap fun q => scriptsOf q.copy.tok? else []) }

/-- The tag's retraction is on the screen (R111). -/
def Lane.shownOnScreen (x : Lane) (tag : Half) : Bool :=
  x.locate tag == .screen || x.locate tag == .emitShown

/-- R111 step 2: whether the returns fit. -/
def erasureFits (shown : List Half) (p : Span) (x : Composer) : Bool :=
  let returns := (x.settledSpans.filter fun q => p.start ≤ q.start).filter fun q => !q.selected shown
  let less := if x.headSpan.any (Span.selected shown) then 1 else 0
  x.emission.length - less + returns.length ≤ Config.emissionCap

/-- R106 step 3: the screen retractions among the selected tags are erased, or are unreachable. -/
def eraseShown (selected : List Half) (g : Correcting) : Correcting :=
  let x := g.work.lane
  let shown := selected.filter x.shownOnScreen
  match leftmost (x.composer.rows.spans.filter fun q => !q.continues && q.selected shown) with
  | none => { g with unreachable := g.unreachable + shown.length }
  | some p =>
    if erasureFits shown p x.composer then erase shown p g
    else { g with unreachable := g.unreachable + shown.length }

/-! ## Marker and cursor (R114, R115) -/

/-- R114: the correction marker. -/
def appendMarker (g : Correcting) : Correcting :=
  let x := g.work.lane.composer
  if 0 < g.unreachable && (g.work.lane.hold.state == .run || g.work.lane.hold.state == .softHeld) &&
      x.emission.length < Config.emissionCap then
    { g with work := g.work.setComposer { x with emission := x.emission ++ [markerEntry x.corrMarker] } }
  else g

/-- The smallest of a list of indices. -/
def smallest : List Nat → Option Nat
  | [] => none
  | i :: is => match smallest is with | some j => some (min i j) | none => some i

/-- R115, R136: the follower's cursor is set back in LOCKED; a step-back to an index above the cursor is not
made. One to the cursor itself is made (log 30). -/
def setCursorBack (c : LaneCtx) (g : Correcting) : Correcting :=
  match smallest g.scripts with
  | some i =>
    if g.work.lane.follower.state = .locked ∧ i ≤ g.work.lane.follower.cursor
    then { g with work := stepBack c i g.work } else g
  | none => g

/-- R106: a CORRECT of count `n` from the floor slot `k`; the number of reachable retractions. -/
def correctUnit (c : LaneCtx) (k : SlotId) (n : Nat) (w : Work) : Work × Nat :=
  let recent := w.lane.recent.get k
  let sel := selectTags n recent
  let w1 : Work := { w with lane := { w.lane with recent := w.lane.recent.set k sel.2 } }
  let g0 : Correcting := { work := w1, reachable := 0, unreachable := n - sel.1.length, scripts := [] }
  let g1 := sel.1.foldl retractOff g0
  let g2 := eraseShown sel.1 g1
  let g3 := setCursorBack c (appendMarker g2)
  (g3.work, g3.reachable)

end Sys2Proof.Machine
end

