-- ==== Sys2Proof/Machine/Override.lean ====
section
/-!
DEFINITION. Override Control at a lane (chapter 10): holds, links, and the effects of a LANE-SET.
-/
namespace Sys2Proof.Machine

/-- Causes of an OVERRIDE report (12.5). -/
inductive HoldCause where
  | ovrLine | directive | link | enable
  deriving DecidableEq, Repr

/-- Their codes. -/
def HoldCause.code : HoldCause → Nat
  | .ovrLine => 1
  | .directive => 2
  | .link => 3
  | .enable => 4

/-- R163: the OVERRIDE report of a change of lane state from `old`. -/
def holdReport (c : LaneCtx) (cause : HoldCause) (old : LaneState) (tokens standby : Nat) (w : Work) : Work :=
  w.report c .override
    [codeItem old.code, codeItem w.lane.hold.state.code, codeItem cause.code, flagItem c.ovrLevel,
     flagItem c.softFlag, codeItem w.lane.link.code, halfItem tokens, halfItem standby]

/-- The lane state set. -/
def Work.setState (w : Work) (x : LaneState) : Work := w.setHold { w.lane.hold with state := x }

/-- R158: a soft hold starts. -/
def softHoldStart (c : LaneCtx) (cause : HoldCause) (w : Work) : Work :=
  holdReport c cause w.lane.hold.state 0 0
    ((w.setComposer w.lane.composer.emptyRows).setState .softHeld)

/-- R159: the due field is earlier than the threshold. -/
def staleTok (threshold : Field) (t : Tok) : Bool := earlier t.due threshold

/-- R159: an uncomposed TOKEN entry whose due field is earlier than the threshold. -/
def staleEntry (threshold : Field) (e : Entry) : Bool :=
  e.composed == 0 &&
    (match e.body with
     | .token t => staleTok threshold t
     | .marker _ _ => false)

/-- R159: a soft hold ends, with its stale discards. -/
def softHoldEnd (c : LaneCtx) (cause : HoldCause) (w : Work) : Work :=
  let threshold := c.now - BitVec.ofNat 32 w.lane.stale
  let q := w.lane.hold.queue
  let es := w.lane.composer.emission
  let nq := q.countP (staleTok threshold)
  let ne := es.countP (staleEntry threshold)
  let w1 := w.setHold { w.lane.hold with queue := q.filter fun t => !staleTok threshold t }
  let w2 := w1.setComposer
    { w1.lane.composer with emission := es.filter fun e => !staleEntry threshold e }
  let w3 := w2.count fun k =>
    { k with held := k.held - BitVec.ofNat 32 nq, queued := k.queued - BitVec.ofNat 32 ne,
             discStale := k.discStale + BitVec.ofNat 32 (nq + ne) }
  holdReport c cause w.lane.hold.state (nq + ne) 0 (w3.setState .run)

/-- R160: a hard hold starts. The follower's report and the OVERRIDE report are handed over by two
blocks in one event (log 4). -/
def hardHoldStart (c : LaneCtx) (cause : HoldCause) (w : Work) : Work :=
  let tokens := w.lane.queuedTokens
  let standby := w.lane.pens.standby.length
  let old := w.lane.hold.state
  let w1 := (emptyLane .override w).setState .hardHeld
  if c.scriptFirst then holdReport c cause old tokens standby (unlockFollower c .hold w1)
  else unlockFollower c .hold (holdReport c cause old tokens standby w1)

/-- R161: a hard hold ends. -/
def hardHoldEnd (c : LaneCtx) (cause : HoldCause) (w : Work) : Work :=
  holdReport c cause w.lane.hold.state 0 0
    ((w.setTracker w.lane.tracker.beginAfresh).setState .run)

/-- R156, R157: the hold of the lane's link mode starts in a lane in RUN. -/
def holdStart (cause : HoldCause) (c : LaneCtx) (w : Work) : Work :=
  if w.lane.hold.state = .run then
    match w.lane.link with
    | .none => w
    | .soft => softHoldStart c cause w
    | .hard => hardHoldStart c cause w
  else w

/-- R156: the lane's hold ends. -/
def holdEnd (cause : HoldCause) (c : LaneCtx) (w : Work) : Work :=
  match w.lane.hold.state with
  | .off => w
  | .run => w
  | .softHeld => softHoldEnd c cause w
  | .hardHeld => hardHoldEnd c cause w

/-- R162: a LINK directive's effect. -/
def acceptLink (mode : LinkMode) (c : LaneCtx) (w : Work) : Work :=
  let old := w.lane.link
  let w1 : Work := { w with lane := { w.lane with link := mode } }
  if w.lane.hold.state = .off || !c.overrideOn then w1
  else match old, mode with
    | .none, .none => w1
    | .none, .soft => softHoldStart c .link w1
    | .none, .hard => hardHoldStart c .link w1
    | .soft, .none => softHoldEnd c .link w1
    | .soft, .soft => w1
    | .soft, .hard => hardHoldStart c .link w1
    | .hard, .none => hardHoldEnd c .link w1
    | .hard, .soft => softHoldStart c .link (hardHoldEnd c .link w1)
    | .hard, .hard => w1

/-- R73, R72, R153, R157: the parameters of an accepted LANE-SET. -/
def setLaneParams (p : LaneParams) (w : Work) : Work :=
  let w1 := setComposerParams p (setPenParams p (setTrackerParams p w))
  { w1 with lane := { w1.lane with stale := p.stale } }

/-- R88, R81: a lane that was OFF is enabled. -/
def enableLane (c : LaneCtx) (w : Work) : Work :=
  let t := w.lane.tracker
  let w1 := (w.setTracker { t.beginAfresh with l := t.initial }).setState .run
  if c.overrideOn then holdStart .enable c w1 else w1

/-- R88, R89: an accepted LANE-SET. -/
def acceptLaneSet (p : LaneParams) (c : LaneCtx) (w : Work) : Work :=
  let w1 := setLaneParams p w
  if p.enable then
    if w1.lane.hold.state = .off then enableLane c w1 else w1
  else disableLane c w1

end Sys2Proof.Machine
end

