-- ==== Sys2Proof/Machine/Records.lean ====
section
/-!
DEFINITION. The Record Assemblers (chapter 3), the processing of ingest records by the Pen Monitor (R45,
R52 to R55), the directives (section 11.4) and STOP (R169).
-/
namespace Sys2Proof.Machine

/-! ## Ingest records at a lane -/

/-- What the sequence test finds (R53). -/
inductive SeqResult where
  | inSequence | gap | duplicate
  deriving DecidableEq, Repr

/-- R53: the record's sequence number against the slot's base. -/
def seqTest (base : Option Half) (seq : Half) : SeqResult :=
  match base with
  | none => .inSequence
  | some b =>
    let d := (seq - (b + 1)).toNat
    if d = 0 then .inSequence else if d ≤ 32767 then .gap else .duplicate

/-- A disposition without health: the health is that after the whole processing (R47). -/
def disp (outcome : DispOutcome) (detail : Nat) (gap : Bool) : Disposition :=
  { outcome := outcome, detail := detail, gap := gap, health := none }

/-- R45 test 9. -/
def accepted (gap : Bool) (detail : Nat) : Disposition :=
  disp (if gap then .acceptedGap else .accepted) detail gap

/-- R45 test 8: the detail is the floor state at processing. -/
def refusedRole (w : Work) (gap : Bool) : Disposition := disp .refusedRole w.lane.pens.floor.code gap

/-- R52 step 5: the effect of a record of slot `k`, by kind. -/
def recordEffect (c : LaneCtx) (k : SlotId) (kind : IngestKind) (r : IngestRecord) (gap : Bool) (w : Work) :
    Work × Disposition :=
  match kind with
  | .token =>
    if w.lane.hold.state = .hardHeld then
      (w.count fun n => { n with heldOut := n.heldOut + 1 }, disp .heldOut 0 gap)
    else
      let e := tokenEffect c k r w
      (e.1, accepted gap e.2)
  | .correct =>
    let e := if (w.slot k).role = .floor then correctUnit c k r.argument w else standbyCorrect k r.argument w
    (e.1, accepted gap e.2)
  | .offer =>
    match offerEffect c k w with
    | some w1 => (w1, accepted gap 1)
    | none => (w, refusedRole w gap)
  | .take =>
    match takeEffect c k w with
    | some w1 => (w1, accepted gap 1)
    | none => (w, refusedRole w gap)
  | .keepalive => (w, accepted gap 0)

/-- R55: a record of a BARRED slot. -/
def barredEffect (c : LaneCtx) (k : SlotId) (kind : IngestKind) (gap : Bool) (w : Work) :
    Work × Disposition :=
  let p := w.slot k
  let run := if gap then 0 else if kind = .keepalive then p.keepRun + 1 else p.keepRun
  if Config.recoveryRun ≤ run then
    (setFault c k 0 .keepalive (w.setSlot k { p with keepRun := 0 }), disp .barred Config.recoveryRun gap)
  else (w.setSlot k { p with keepRun := run }, disp .barred run gap)

/-- R52 step 2: the slot is heard. -/
def hear (c : LaneCtx) (k : SlotId) (w : Work) : Work :=
  w.setSlot k { w.slot k with lastHeard := c.now, silent := false }

/-- R52 steps 4 and 5, after the sequence step. -/
def afterSequence (c : LaneCtx) (k : SlotId) (kind : IngestKind) (r : IngestRecord) (gap : Bool) (w : Work) :
    Work × Disposition :=
  if (w.slot k).health = .barred then barredEffect c k kind gap w else recordEffect c k kind r gap w

/-- R52 steps 2 to 5: a well-formed record of slot `k`. -/
def wellFormedRecord (c : LaneCtx) (k : SlotId) (kind : IngestKind) (r : IngestRecord) (w : Work) :
    Work × Disposition :=
  let w1 := hear c k w
  match seqTest (w1.slot k).base r.seq with
  | .duplicate => (w1, disp .duplicate 0 false)
  | .inSequence =>
    afterSequence c k kind r false (chargeGood c k (w1.setSlot k { w1.slot k with base := some r.seq }))
  | .gap =>
    afterSequence c k kind r true (chargeBad c k (w1.setSlot k { w1.slot k with base := some r.seq }))

/-- R52 step 1: a bad record of slot `k`. -/
def badRecord (c : LaneCtx) (k : SlotId) (w : Work) : Work :=
  let w1 := chargeBad c k w
  w1.setSlot k { w1.slot k with keepRun := 0 }

/-- R52 step 6: the failover evaluation when the health of either slot has changed. -/
def evaluateChanged (c : LaneCtx) (before after : Work) : Work :=
  if (after.slot .a).health = (before.slot .a).health ∧ (after.slot .b).health = (before.slot .b).health
  then after else failover c after

/-- R47: the health of the record's slot after the whole processing. -/
def withHealth (k : SlotId) (w : Work) (d : Disposition) : Disposition :=
  { d with health := some (w.slot k).health }

/-- R45, R52: a record decided by a test that names its slot, with the evaluation and the health. -/
def monitored (c : LaneCtx) (k : SlotId) (before : Work) (r : Work × Disposition) : Work × Disposition :=
  let w := evaluateChanged c before r.1
  (w, withHealth k w r.2)

/-- R45 tests 2 to 9: an ingest record of a lane that is not OFF. -/
def classify (c : LaneCtx) (x : Rec) (w : Work) : Work × Disposition :=
  let r := readIngest x
  let slot := w.lane.pens.slotOf r.pen
  if !checkPasses x then
    match slot with
    | some k => monitored c k w (badRecord c k w, disp .badCheck 0 false)
    | none => (w, disp .badCheck 0 false)
  else
    match formFailure r, r.kind with
    | none, some kind =>
      match slot with
      | some k => monitored c k w (wellFormedRecord c k kind r w)
      | none => (w, disp .stranger 0 false)
    | detail, _ =>
      match slot with
      | some k => monitored c k w (badRecord c k w, disp .badForm (detail.getD 1) false)
      | none => (w, disp .badForm (detail.getD 1) false)

/-- R45: an ingest record processed at its lane. -/
def processIngest (c : LaneCtx) (x : Rec) (w : Work) : Work × Disposition :=
  if w.lane.hold.state = .off then (w, disp .laneOff 0 false) else classify c x w

/-! ## Directives (R170) -/

/-- What a directive's processing gives: the part, the disposition, and whether it is a STOP. -/
structure Processed where
  state : State
  disp : Disposition
  isStop : Bool
  deriving DecidableEq, Repr

/-- REFUSED with a reason by its code (Table 12-3). -/
def refuseWith (reason : Nat) (s : State) : Processed :=
  { state := s, disp := disp .refused reason false, isStop := false }

/-- ACCEPTED. -/
def acceptState (s : State) : Processed := { state := s, disp := disp .accepted 0 false, isStop := false }

/-- R170 test 1: the directive's lane, when it is 0 to 3 and has an INGEST window. -/
def directiveLane (ws : List Word) (s : State) : Option LaneId :=
  match laneOfNat (field (wordAt ws 1) 0 8) with
  | some l => if (s.windowOf .ingest (some l)).isSome then some l else none
  | none => none

/-- The pen slot of word 1 (Table 12-1). -/
def directiveSlot (ws : List Word) : SlotId := if bitOf (wordAt ws 1) 8 then .b else .a

/-- The PEN-SET as its words ask for it (Table 12-2). -/
def readPenSet (ws : List Word) : PenSetAsk :=
  { slot := directiveSlot ws, pen := lowHalf (wordAt ws 3), floor := bitOf (wordAt ws 1) 9 }

/-- R121, R170: a CUE directive. -/
def directiveCue (ws : List Word) (l : LaneId) (s : State) : Processed :=
  let first := field (wordAt ws 3) 0 12
  let count := field (wordAt ws 3) 16 13
  if !inRange 1 4096 count then refuseWith 2 s
  else match s.windowOf .cue (some l) with
    | none => refuseWith 4 s
    | some win =>
      if win.length < (first + count) * 32 then refuseWith 5 s
      else acceptState (runLane l (fun c w => acceptCue c first count w) s)

/-- R156: lane `l` takes a change of the effective override to `after`. Its reports of the change are staged side by
side, the model's choice (R172, log 32). -/
def takeOverride (cause : HoldCause) (after : Bool) (l : LaneId) (s : State) : State :=
  runLane l (if after then holdStart cause else holdEnd cause) s

/-- R156: the effective override changes from `before` to `after`; each lane takes it, in an order the spec
leaves open (log 4). -/
def changeOverride (cause : HoldCause) (before after : Bool) (s : State) : State :=
  if before = after then s
  else
    let o := freshOrder allLanes s
    o.1.foldl (fun t l => takeOverride cause after l t) o.2

/-- R156: an OVERRIDE directive. -/
def acceptOverride (on : Bool) (s : State) : State :=
  changeOverride .directive s.overrideOn (s.timer.ovr.taken || on)
    { s with unit := { s.unit with softOverride := on } }

/-- The counters in the order of Table 6-2. -/
def counterItems (k : Counters) : List Item :=
  [.whole k.admitted, .whole k.held, .whole k.queued, .whole k.emitted, .whole k.retracted,
   .whole k.discPressure, .whole k.discStale, .whole k.discOverride, .whole k.discFlush, .whole k.heldOut,
   .whole k.standbyDiscarded, .whole k.lostRecords, .whole k.missedPackets, .whole k.lateReads,
   .whole k.unmatchedOnsets, .whole k.erasedCells]

/-- R171, R177: the detail of a SNAPSHOT report of lane `l`. -/
def snapshotItems (l : LaneId) (s : State) : List Item :=
  let x := s.lanes.get l
  let a := s.asm.get (.lane l)
  let f := x.follower
  let g := x.composer
  counterItems x.hold.counters ++
  [.whole a.abandoned, .whole a.stray, .whole s.asm.command.abandoned, .whole s.asm.command.stray,
   .whole s.asm.commandLost, .whole s.timer.irregular, .whole f.skipCount, .whole f.starvedCount,
   codeItem x.hold.state.code, halfItem x.hold.queue.length, halfItem g.emission.length,
   .half x.hold.tagCounter, halfItem x.hold.tallyDiscard, halfItem x.hold.tallyEarly,
   halfItem x.tracker.l, halfItem x.tracker.d, codeItem x.tracker.onsets.length,
   flagItem x.tracker.hardAlign, flagItem x.tracker.startPending,
   codeItem f.state.code, halfItem (match f.cue with | some q => q.first | none => 0),
   halfItem (match f.cue with | some q => q.count | none => 0), halfItem f.cursor,
   halfItem (if f.buffer = [] then 0 else f.base), codeItem f.buffer.length,
   flagItem f.fetch.isSome, flagItem (match f.fetch with | some q => q.overtaken | none => false),
   halfItem (match f.seek with | some q => q.candidate | none => 0),
   codeItem (match f.seek with | some q => q.run | none => 0), codeItem f.missRun,
   codeItem g.rows.column, codeItem g.rows.rowCount, codeItem g.eraseDebt, flagItem g.pendingClear,
   .half g.active.generation, flagItem g.opened, flagItem g.missed, codeItem g.unopened,
   flagItem s.timer.ovr.taken, flagItem s.unit.softOverride, flagItem s.overrideOn,
   codeItem s.lanes.l0.link.code, codeItem s.lanes.l1.link.code, codeItem s.lanes.l2.link.code,
   codeItem s.lanes.l3.link.code]

/-- R171: a SNAPSHOT directive. -/
def acceptSnapshot (l : LaneId) (s : State) : State :=
  handReport
    { cause := .snapshot, lane := .lane l, ringSlot := none, field := s.timer.f,
      detail := snapshotItems l s } s

/-- The link mode of a code; 3 is out of range (Table 12-2). -/
def linkModeOf : Nat → Option LinkMode
  | 0 => some .none
  | 1 => some .soft
  | 2 => some .hard
  | _ => none

/-- R170, Table 11-3: a directive for lane `l`, after test 1. -/
def laneDirective (k : DirectiveKind) (ws : List Word) (l : LaneId) (s : State) : Processed :=
  match k with
  | .laneSet =>
    let p := readLaneSet ws
    if p.ok then acceptState (runLane l (acceptLaneSet p) s) else refuseWith 2 s
  | .penSet =>
    let q := readPenSet ws
    let pens := (s.lanes.get l).pens
    if penSetBusy pens q then refuseWith 3 s
    else if penSetTaken pens q then refuseWith 2 s
    else acceptState (runLane l (fun c w => acceptPenSet c q w) s)
  | .cue => directiveCue ws l s
  | .uncue => acceptState (runLane l (fun _ w => acceptUncue w) s)
  | .link =>
    match linkModeOf (field (wordAt ws 3) 0 2) with
    | some m => acceptState (runLane l (acceptLink m) s)
    | none => refuseWith 2 s
  | .flush => acceptState (runLane l flushLane s)
  | .restore =>
    if ((s.lanes.get l).pens.slots.get (directiveSlot ws)).isEmpty then refuseWith 2 s
    else acceptState (runLane l (fun c w => acceptRestore c (directiveSlot ws) w) s)
  | .snapshot => acceptState (acceptSnapshot l s)
  | .override => acceptState (acceptOverride (bitOf (wordAt ws 3) 0) s)
  | .stop => { acceptState s with isStop := true }

/-- R170: a directive that passed its check and kind tests. -/
def carryOut (k : DirectiveKind) (ws : List Word) (s : State) : Processed :=
  match k with
  | .override => acceptState (acceptOverride (bitOf (wordAt ws 3) 0) s)
  | .stop => { acceptState s with isStop := true }
  | k =>
    match directiveLane ws s with
    | some l => laneDirective k ws l s
    | none => refuseWith 1 s

/-- R46: a command record. -/
def processDirective (x : Rec) (s : State) : Processed :=
  if !checkPasses x then { state := s, disp := disp .badCheck 0 false, isStop := false }
  else match directiveKindOf (field (wordAt x.words 0) 0 8) with
    | none => { state := s, disp := disp .badForm 1 false, isStop := false }
    | some k => carryOut k x.words s

/-! ## The handoff stage (R39) -/

/-- The base of an assembler's window; 0 when the table holds none, where no record is assembled. -/
def State.ringBase (s : State) (a : AsmId) : Addr :=
  match s.ringWindow a with
  | some w => w.base
  | none => 0

/-- The address of word 14 of a slot (R39). -/
def dispositionAddr (base : Addr) (slot : Nat) : Addr := base + BitVec.ofNat 28 (64 * slot + 56)

/-- R39: the processed record in the handoff stage, and its write-back entered. -/
def placeHandoff (a : AsmId) (x : Rec) (d : Disposition) (isStop : Bool) (s : State) : State :=
  enterRequest
    { requester := .writeBack a, addr := dispositionAddr (s.ringBase a) x.slot, xfer := .write [d.word] }
    (s.setAsm a { s.asm.get a with handoff := some { record := x, disp := d, isStop := isStop } })

/-- R39: the record processed by its block. -/
def processByBlock (a : AsmId) (x : Rec) (s : State) : Processed :=
  match a with
  | .lane l =>
    let r := processIngest (s.laneCtx l) x { lane := s.lanes.get l, out := [] }
    { state := finishWork l r.1 { s with freeIndex := s.freeIndex + 1 }, disp := r.2, isStop := false }
  | .command => processDirective x s

/-- R39: a complete record enters the handoff stage and is processed, whole. -/
def processRecord (a : AsmId) (x : Rec) (s : State) : State :=
  let p := processByBlock a x s
  placeHandoff a x p.disp p.isStop p.state

/-! ## STOP (R169) -/

/-- R48: an assembler at STOP: its stages empty and its counts 0; a handoff whose write-back is on Port M
stays until that ends. -/
def stopAssembler (a : AsmId) (portM : Option MAccess) (x : Assembler) : Assembler :=
  let inFlight : Bool := match portM with | some m => m.owner == .engine (.writeBack a) | none => false
  { stage := .empty, handoff := if inFlight then x.handoff else none, abandoned := 0, stray := 0 }

/-- R48 for the five assemblers. -/
def stopAssemblers (portM : Option MAccess) (x : Assemblers) : Assemblers :=
  { lanes :=
      { l0 := stopAssembler (.lane .l0) portM x.lanes.l0, l1 := stopAssembler (.lane .l1) portM x.lanes.l1,
        l2 := stopAssembler (.lane .l2) portM x.lanes.l2, l3 := stopAssembler (.lane .l3) portM x.lanes.l3 },
    command := stopAssembler .command portM x.command, commandLost := 0 }

/-- R169 step 2: the outcome of an engine access on Port M will be discarded. -/
def orphaned (m : MAccess) : MAccess :=
  match m.owner with
  | .engine _ => { m with orphan := true }
  | .port _ => m

/-- R169: STOP takes effect. The lanes take the values of a power-on reset, which is what the disabling
and the STOP values of R72, R85, R139, R155 and R164 leave (log 23). -/
def stopTakesEffect (s : State) : State :=
  let discarded := s.report.staging.length
  let s1 : State :=
    { s with
      unit := { s.unit with partState := .stopping, softOverride := false },
      engine := ⟨[], []⟩,
      path := { s.path with portM := s.path.portM.map orphaned,
                            h := { s.path.h with tally := .empty }, v := { s.path.v with tally := .empty } },
      asm := stopAssemblers s.path.portM s.asm,
      lanes := .all .reset,
      report := { s.report with staging := [], phase := .idle } }
  handReport
    { cause := .stopped, lane := .none, ringSlot := none, field := s.timer.f,
      detail := [.whole (BitVec.ofNat 32 discarded), .whole s.report.dropped] } s1

/-- An access of the Transfer Engine is on Port M. -/
def State.engineOnPortM (s : State) : Bool :=
  match s.path.portM with
  | some m => (match m.owner with | .engine _ => true | .port _ => false)
  | none => false

/-- R169: STOPPING ends when the STOPPED report has been written or dropped and no access of the Transfer
Engine is on Port M. -/
def finishStopping (s : State) : State :=
  if s.unit.partState = .stopping ∧ s.report.staging = [] ∧ s.engineOnPortM = false then
    { s with
      unit := { s.unit with partState := .setup, resetCause := .stop },
      path := { s.path with windows := List.replicate 16 none } }
  else s

/-! ## Assembly (R34 to R38, R41, R42) -/

/-- A report of an assembler that names a ring slot. -/
def ringReport (a : AsmId) (slot : Nat) (cause : Cause) (detail : List Item) (s : State) : State :=
  handReport
    { cause := cause, lane := a.reportLane, ringSlot := some slot, field := s.timer.f, detail := detail } s

/-- R41: slot reuse: the report, the write-back withdrawn, the handoff stage empty. -/
def reuseSlot (a : AsmId) (h : Handoff) (s : State) : State :=
  let s1 := withdrawRequest (.writeBack a) (s.setAsm a { s.asm.get a with handoff := none })
  ringReport a h.record.slot .slotReused
    [.whole h.record.arrival, codeItem h.disp.outcome.code, codeItem h.disp.detail] s1

/-- R42: a lost record is counted, at its lane or at the command assembler. -/
def countLost (a : AsmId) (s : State) : State :=
  match a with
  | .lane l =>
    s.setLane l ((s.lanes.get l).count fun k => { k with lostRecords := k.lostRecords + 1 })
  | .command => { s with asm := { s.asm with commandLost := s.asm.commandLost + 1 } }

/-- R42: a lost record. -/
def loseRecord (a : AsmId) (x : Rec) (s : State) : State :=
  ringReport a x.slot .lostRecord [.whole x.arrival] (countLost a s)

/-- R34 step 4: a new incomplete record. -/
def newRecord (a : AsmId) (slot : Nat) (data : Word) (s : State) : State :=
  s.setAsm a
    { s.asm.get a with
      stage := .incomplete
        { slot := slot, words := some data :: List.replicate 15 none, arrival := s.timer.f } }

/-- R34 steps 2 to 4. -/
def startRest (a : AsmId) (slot : Nat) (data : Word) (s : State) : State :=
  let x := s.asm.get a
  match x.stage with
  | .empty => newRecord a slot data s
  | .incomplete _ => newRecord a slot data (s.setAsm a { x with abandoned := x.abandoned + 1 })
  | .complete r =>
    let s1 := s.setAsm a { x with stage := .empty }
    if r.slot = slot ∨ x.handoff.isSome = true then newRecord a slot data (loseRecord a r s1)
    else newRecord a slot data (processRecord a r s1)

/-- R34, R169: a write of word 0 of a slot. -/
def startRecord (a : AsmId) (slot : Nat) (data : Word) (s : State) : State :=
  match (s.asm.get a).handoff with
  | some h =>
    if h.record.slot = slot then
      if h.isStop then stopTakesEffect (reuseSlot a h s) else startRest a slot data (reuseSlot a h s)
    else startRest a slot data s
  | none => startRest a slot data s

/-- R38: the complete record of an incomplete one with its word 15. -/
def PartialRec.finish (p : PartialRec) (data : Word) : Rec :=
  { slot := p.slot, words := (p.words.map fun w => w.getD 0).set 15 data, arrival := p.arrival }

/-- R38: the collection of word 15. -/
def completeRecord (a : AsmId) (p : PartialRec) (data : Word) (s : State) : State :=
  let x := s.asm.get a
  if x.handoff.isSome then s.setAsm a { x with stage := .complete (p.finish data) }
  else processRecord a (p.finish data) (s.setAsm a { x with stage := .empty })

/-- R35, R36: the collection of word `k`, 1 to 14, with the value kept. -/
def PartialRec.collect (p : PartialRec) (k : Nat) (data : Word) (now : Field) : PartialRec :=
  if k = 2 then { p with words := p.words.set 2 (some now), arrival := now }
  else { p with words := p.words.set k (some data) }

/-- R37: a stray write. -/
def strayWrite (a : AsmId) (s : State) : State :=
  s.setAsm a { s.asm.get a with stray := (s.asm.get a).stray + 1 }

/-- R35 to R38: a write of word `k`, 1 to 15, of a slot; the data that leave for memory. -/
def laterWord (a : AsmId) (slot k : Nat) (data : Word) (s : State) : State × Word :=
  match (s.asm.get a).stage with
  | .incomplete p =>
    if p.slot = slot then
      if k = 15 then (completeRecord a p data s, data)
      else
        (s.setAsm a { s.asm.get a with stage := .incomplete (p.collect k data s.timer.f) },
         if k = 2 then s.timer.f else data)
    else (strayWrite a s, data)
  | .empty => (strayWrite a s, data)
  | .complete _ => (strayWrite a s, data)

/-- R20, R33: a copy of a word handed to an assembler, by its offset in the window; the data that leave
for memory. -/
def copyWord (a : AsmId) (offset : Nat) (data : Word) (s : State) : State × Word :=
  if offset % 64 / 4 = 0 then (startRecord a (offset / 64) data s, data)
  else laterWord a (offset / 64) (offset % 64 / 4) data s

/-- R40: the end of an assembler's write-back; `ok` is false for NO-RESPONSE. -/
def writebackEnd (a : AsmId) (m : MAccess) (ok : Bool) (s : State) : State :=
  let x := s.asm.get a
  match x.handoff with
  | none => s
  | some h =>
    let s1 := s.setAsm a { x with handoff := none }
    if m.orphan || s.unit.partState != .running then s1
    else
      let s2 := if ok then s1
        else ringReport a h.record.slot .engineError [codeItem 1, .whole (BitVec.ofNat 32 m.addr.toNat)] s1
      if h.isStop then stopTakesEffect s2
      else match x.stage with
        | .complete r => processRecord a r (s2.setAsm a { s2.asm.get a with stage := .empty })
        | .empty => s2
        | .incomplete _ => s2

end Sys2Proof.Machine
end

