-- ==== Sys2Proof/Machine/Path.lean ====
section
/-!
DEFINITION. The Memory Path (chapter 2): window treatment, the taking of words, refusal, the arbiter, the
ends of accesses; and START (R168).
-/
namespace Sys2Proof.Machine

/-! ## Where a word falls (R18, R19) -/

/-- What a word falls in. -/
inductive Region where
  | outside
  | boot (index : Nat)
  | window (w : Window)
  deriving DecidableEq, Repr

/-- The base of the boot window (R19). -/
def State.bootBase (s : State) : Nat := Sys2Proof.Machine.bootBase s.unit.boot1 s.unit.boot0

/-- R18, R19: in SETUP the boot window is watched, in RUNNING the loaded table, in STOPPING nothing. -/
def State.regionOf (s : State) (a : Addr) : Region :=
  match s.unit.partState with
  | .setup =>
    if s.bootBase ≤ a.toNat ∧ a.toNat < s.bootBase + 512 then .boot ((a.toNat - s.bootBase) / 4) else .outside
  | .running =>
    match findWindow s.path.windows fun w => w.covers a with
    | some w => .window w
    | none => .outside
  | .stopping => .outside

/-- The byte offset of an address in a window. -/
def Window.offset (w : Window) (a : Addr) : Nat := a.toNat - w.base.toNat

/-- The assembler of an INGEST or COMMAND window. -/
def Window.assembler (w : Window) : AsmId :=
  match w.lane with
  | some l => .lane l
  | none => .command

/-- The lane of a window (R21, R22). -/
def Window.laneId (w : Window) : LaneId := w.lane.getD .l0

/-- The lane a WRITE-REFUSED report names for a window (R25). -/
def Window.reportLane (w : Window) : ReportLane :=
  match w.lane with
  | some l => .lane l
  | none => if w.kind = .command then .command else .none

/-! ## Treatment (Table 2-2, R19 to R23) -/

/-- R21: the host's write falls in the lane's cued block while it is protected. -/
def State.cueRefuses (s : State) (w : Window) (a : Addr) : Bool :=
  let f := (s.lanes.get w.laneId).follower
  f.protects && f.inBlock (w.offset a)

/-- Table 2-2: the write of a word is refused. -/
def State.writeRefused (s : State) (p : Port) (a : Addr) : Bool :=
  match s.regionOf a with
  | .outside => false
  | .boot _ => false
  | .window w =>
    match p with
    | .v => true
    | .h => w.kind == .air || (w.kind == .cue && s.cueRefuses w a)

/-- R22: the read of a word is answered from inside the part. -/
def State.readInside (s : State) (a : Addr) : Bool :=
  match s.regionOf a with
  | .outside => false
  | .boot _ => false
  | .window w => w.kind == .air

/-- R16: the word must reach memory. -/
def State.needsMemory (s : State) (p : Port) (isWrite : Bool) (a : Addr) : Bool :=
  if isWrite then !s.writeRefused p a else !s.readInside a

/-- R25: a refused word in the port's tally. -/
def refuseWord (p : Port) (a : Addr) (s : State) : State :=
  let u := s.portUnit p
  let lane : ReportLane := match s.regionOf a with | .window w => w.reportLane | .outside => .none | .boot _ => .none
  s.setPort p
    { u with tally :=
        if u.tally.count = 0 then { count := 1, first := a, lane := lane }
        else { u.tally with count := u.tally.count + 1 } }

/-- R174: the consume index offered by the host. -/
def offerConsume (data : Word) (s : State) : State :=
  if data.toNat < s.report.size then s.setReport { s.report with consume := data.toNat } else s

/-- R166: a word of the setup copy replaced. -/
def copySetup (index : Nat) (data : Word) (s : State) : State :=
  { s with unit := { s.unit with setupCopy := s.unit.setupCopy.set index data } }

/-- R19 to R23: a written word that is not refused: what the blocks do with their copy, and the data that
leave for memory. -/
def passWrite (p : Port) (a : Addr) (data : Word) (s : State) : State × Word :=
  match p with
  | .v => (s, data)
  | .h =>
    match s.regionOf a with
    | .outside => (s, data)
    | .boot i => (copySetup i data s, data)
    | .window w =>
      match w.kind with
      | .ingest => copyWord w.assembler (w.offset a) data s
      | .command => copyWord w.assembler (w.offset a) data s
      | .cue => (s, data)
      | .air => (s, data)
      | .report => (if w.offset a = 4 then offerConsume data s else s, data)

/-- R17: one word of a write is taken. -/
def takeWrite (p : Port) (a : Addr) (data : Word) (s : State) : State × Taken :=
  if s.writeRefused p a then (refuseWord p a s, .masked)
  else
    let r := passWrite p a data s
    (r.1, .store r.2)

/-- R22: the AIR word as Port V reads it: word 0 opens ACTIVE, the others come from the read latch. -/
def readLatch (l : LaneId) (k : Nat) (s : State) : State × Word :=
  let x := (s.lanes.get l).composer
  if k = 0 then (runLane l (openActive s.unit.fieldRepeat) s, x.active.word 0)
  else (s, (x.latch.getD x.active).word k)

/-- R17, R22: one word of a read is taken. -/
def takeRead (p : Port) (a : Addr) (s : State) : State × Taken :=
  match s.regionOf a with
  | .outside => (s, .load)
  | .boot _ => (s, .load)
  | .window w =>
    if w.kind = .air then
      let k := w.offset a / 4
      match p with
      | .h => (s, .inside ((s.lanes.get w.laneId).composer.active.word k))
      | .v =>
        let r := readLatch w.laneId k s
        (r.1, .inside r.2)
    else (s, .load)

/-- R17: the words of a write, in ascending address order. -/
def takeWrites (p : Port) : Addr → List Word → State → State × List Taken
  | _, [], s => (s, [])
  | a, d :: ds, s =>
    let r := takeWrite p a d s
    let rest := takeWrites p (a + 4) ds r.1
    (rest.1, r.2 :: rest.2)

/-- R17: the words of a read, in ascending address order. -/
def takeReads (p : Port) : Nat → Addr → State → State × List Taken
  | 0, _, s => (s, [])
  | n + 1, a, s =>
    let r := takeRead p a s
    let rest := takeReads p n (a + 4) r.1
    (rest.1, r.2 :: rest.2)

/-! ## START (R166 to R168) -/

/-- R166: the access carries a Port H write of 1 to the start word, taken in SETUP. -/
def startWritten (p : Port) (x : Access) (s : State) : Bool :=
  match p, x.xfer, s.unit.partState with
  | .h, .write data, .setup =>
    (List.range data.length).any fun i =>
      (wordAddr x.addr i).toNat == s.bootBase && wordAt data i == 1
  | _, _, _ => false

/-- R1, R15: the timer at an accepted START. -/
def FieldTimer.load (t : FieldTimer) (v : Timing) : FieldTimer :=
  let va := Quad.mk { t.va.l0 with run := 0 } { t.va.l1 with run := 0 } { t.va.l2 with run := 0 }
    { t.va.l3 with run := 0 }
  match t.timing with
  | some _ => { t with timing := some v, va := va, ovr := { t.ovr with run := 0 } }
  | none =>
    { t with timing := some v, va := va, ovr := { t.ovr with run := 0 }, field := none, refState := .locked,
             absenceRunning := true, lineTimerRunning := false }

/-- The address of the setup result word. -/
def State.resultAddr (s : State) : Addr := BitVec.ofNat 28 (s.bootBase + 4)

/-- R168: the setup result writer enters the write of the result word. -/
def enterResult (failure : Option (SetupReason × Option Nat)) (s : State) : State :=
  enterRequest
    { requester := .setupResult, addr := s.resultAddr,
      xfer := .write [resultWord failure s.unit.resetCause] } s

/-- R168 steps 1 to 4. -/
def loadSetup (s : State) : State :=
  let copy := s.unit.setupCopy
  { s with
    path := { s.path with windows := readWindows copy, memLimit := readMemLimit copy },
    timer := s.timer.load (readTiming copy),
    unit := { s.unit with partState := .running, fieldRepeat := readFieldRepeat copy },
    report := { staging := [], produce := 0, consume := 0, dropped := 0, lastDropped := 0,
                ringSize := some (readRingSize copy), phase := .idle } }

/-- R168 step 5: the write of 0 to header word 2, the first of the two header writes. -/
def enterStartHeader (s : State) : State :=
  enterRequest { requester := .report, addr := s.reportBase + 8, xfer := .write [0] }
    (s.setReport { s.report with phase := .startDropped })

/-- R167, R168: START carried out. The result write enters the request list before the first header write, the
model's choice (log 33). -/
def doStart (s : State) : State :=
  match setupFailure s.bootBase s.unit.setupCopy with
  | some f => enterResult (some f) s
  | none => enterStartHeader (enterResult none (loadSetup s))

/-- R17, R166: the words of an access taken, and START carried out after every word was copied. -/
def takeAccess (p : Port) (x : Access) (s : State) : State × List Taken :=
  let r := match x.xfer with
    | .write data => takeWrites p x.addr data s
    | .read n => takeReads p n x.addr s
  (if startWritten p x s then doStart r.1 else r.1, r.2)

/-! ## Responses (R24) -/

/-- Whether the transfer writes. -/
def writes : Transfer → Bool
  | .write _ => true
  | .read _ => false

/-- The response given at a port, which becomes IDLE. -/
def respond (p : Port) (code : ResponseCode) (data : List Word) (s : State) : State :=
  s.setPort p { s.portUnit p with state := .idle, response := some { code := code, data := data } }

/-- The read data of the words taken: memory's words in order for the words that came from memory; a word
memory did not supply is zero. -/
def readData : List Taken → List (Option Word) → List Word
  | [], _ => []
  | .inside w :: ts, ms => w :: readData ts ms
  | .load :: ts, [] => 0 :: readData ts []
  | .load :: ts, m :: ms => m.getD 0 :: readData ts ms
  | .store _ :: ts, ms => readData ts ms
  | .masked :: ts, ms => readData ts ms

/-- R24: at least one word of a write was refused. -/
def anyMasked (ts : List Taken) : Bool := ts.any fun t => t == .masked

/-- How an access on Port M ended (R26). -/
inductive Ending where
  | answered (a : MemAnswer)
  | expired
  deriving DecidableEq, Repr

/-- R24: the response of an access from its words and its ending. A write cannot end DATA-ERROR (R31). -/
def Ending.response (e : Ending) (isWrite : Bool) (ts : List Taken) : Response :=
  match e with
  | .expired => { code := .noResponse, data := if isWrite then [] else readData ts [] }
  | .answered a =>
    if isWrite then { code := if anyMasked ts then .refused else .ok, data := [] }
    else match a with
      | .done data => { code := .ok, data := readData ts (data.map some) }
      | .uncorrectable data => { code := .dataError, data := readData ts data }

/-! ## Port M (R26 to R30) -/

/-- R16, R17, R27: Port M granted to the waiting access of an upstream port: its words are taken. -/
def grantPort (p : Port) (x : Access) (s : State) : State :=
  let m : MAccess :=
    { owner := .port p, addr := x.addr, isWrite := writes x.xfer, words := [], orphan := false }
  let s1 := (s.setPort p { s.portUnit p with state := .inFlight }).setPortM (some m)
  let r := takeAccess p x s1
  r.1.setPortM (some { m with words := r.2 })

/-- The words of an engine access: its data, or reads. -/
def engineWords : Transfer → List Taken
  | .write data => data.map .store
  | .read n => List.replicate n .load

/-- The access on Port M that an entry becomes. -/
def engineAccess (q : Request) : MAccess :=
  { owner := .engine q.requester, addr := q.addr, isWrite := writes q.xfer, words := engineWords q.xfer,
    orphan := false }

/-- R30: the entry leaves the list and becomes the access on Port M. -/
def grantEngine (q : Request) (s : State) : State :=
  { s with
    engine := { s.engine with requests := s.engine.requests.erase q },
    path := { s.path with portM := some (engineAccess q) } }

/-- The grantee of a grant under step 3 becomes the last served. -/
def State.setServed (s : State) (x : Served) : State := { s with path := { s.path with lastServed := x } }

/-- The access a port holds WAITING. -/
def PortUnit.waiting? (u : PortUnit) : Option Access :=
  match u.state with
  | .waiting x => some x
  | .idle => none
  | .inFlight => none

/-- R27 step 3: Port H and the engine by turn. -/
def arbitrateTurn (s : State) : State :=
  match s.path.h.waiting?, s.frontEntry with
  | some x, some q =>
    if s.path.lastServed = .portH then grantEngine q (s.setServed .engine)
    else grantPort .h x (s.setServed .portH)
  | some x, none => grantPort .h x (s.setServed .portH)
  | none, some q => grantEngine q (s.setServed .engine)
  | none, none => s

/-- R27: an arbitration, when Port M is FREE. -/
def arbitrate (s : State) : State :=
  if s.path.portM.isSome then s
  else match s.path.v.waiting? with
    | some x => grantPort .v x s
    | none =>
      match s.frontEntry with
      | some q => if s.urgent q then grantEngine q s else arbitrateTurn s
      | none => arbitrateTurn s

/-- The end of a command's event: STOPPING ends when it is due (R169), then one arbitration (log 10). -/
def settle (s : State) : State := finishStopping (arbitrate (finishStopping s))

/-! ## Arrival and end of accesses -/

/-- R16: some word of the access must reach memory. -/
def accessNeedsMemory (p : Port) (x : Access) (s : State) : Bool :=
  (List.range x.xfer.count).any fun i => s.needsMemory p (writes x.xfer) (wordAddr x.addr i)

/-- R16, R24: the response of an access answered internally. -/
def internalResponse (x : Access) (ts : List Taken) : Response :=
  { code := if (writes x.xfer) && anyMasked ts then .refused else .ok,
    data := if (writes x.xfer) then [] else readData ts [] }

/-- R16: an access is received at an IDLE port: answered internally, or WAITING for Port M. An access
presented at a port that is not IDLE is not received (log 7). -/
def receive (p : Port) (x : Access) (s : State) : State :=
  if (s.portUnit p).state = .idle then
    if accessNeedsMemory p x s then
      settle (s.setPort p { s.portUnit p with state := .waiting x })
    else
      let r := takeAccess p x s
      let y := internalResponse x r.2
      settle (respond p y.code y.data r.1)
  else s

/-- R26, R31: the outcome of an engine access goes to its requester. -/
def engineEnd (r : Requester) (m : MAccess) (e : Ending) (s : State) : State :=
  match r with
  | .writeBack a => writebackEnd a m (e != .expired) s
  | .fetch l =>
    if m.orphan then s
    else
      let data : Option (List Word) := match e with
        | .answered (.done ws) => some ws
        | .answered (.uncorrectable _) => none
        | .expired => none
      runLane l (fun c w => burstEnd c data w) s
  | .report => if m.orphan then s else if e = .expired then writerFailed s else writerDone s
  | .setupResult => s

/-- R26: the access on Port M ends: Port M becomes FREE, the outcome goes to the owner, and the next
arbitration is made. -/
def endAccess (m : MAccess) (e : Ending) (s : State) : State :=
  let s1 := s.setPortM none
  match m.owner with
  | .port p =>
    let y := e.response m.isWrite m.words
    settle (respond p y.code y.data s1)
  | .engine r => settle (promoteDeferred (engineEnd r m e s1))

/-- Memory's answer to the access on Port M, when its owner passes the test; an answer to an access that is
not on Port M is discarded (R26). -/
def answerIf (p : Owner → Bool) (a : MemAnswer) (s : State) : State :=
  match s.path.portM with
  | some m => if p m.owner then endAccess m (.answered a) s else s
  | none => s

end Sys2Proof.Machine
end

