-- ==== Sys2Proof/Machine/Timer.lean ====
section
/-!
DEFINITION. The Field Timer (chapter 1): line events, FIELD-START and COMPOSE at the blocks, guard filters.
-/
namespace Sys2Proof.Machine

/-- A REFERENCE report of a change from `old` (R12). -/
def referenceReport (old : RefState) (s : State) : State :=
  handReport
    { cause := .reference, lane := .none, ringSlot := none, field := s.timer.f,
      detail := [codeItem old.code, codeItem s.timer.refState.code, .whole s.timer.irregular] } s

/-! ## The blocks' work at a line event -/

/-- The pieces of work that one line event gives the blocks, each one event at its block. -/
inductive Task where
  /-- The REFERENCE report of a change from `old` (R12). -/
  | reference (old : RefState)
  /-- The refusal tally of a port at FIELD-START (R25). -/
  | tally (p : Port)
  /-- The Pen Monitor at FIELD-START (R71). -/
  | pens (l : LaneId)
  /-- The Hold Queue at FIELD-START (R97, R94). -/
  | hold (l : LaneId)
  /-- The Page Composer at FIELD-START (R147, R148), with the new field's parity. -/
  | composer (l : LaneId) (parity : Parity)
  /-- The Page Composer at COMPOSE (R147), with the predicted parity. -/
  | compose (l : LaneId) (parity : Parity)
  /-- The Latency Tracker at a taken rise on VAn (R14, R74). -/
  | onset (l : LaneId)
  /-- Override Control at a lane, at a taken change of OVR that changes the effective override to `after`
  (R14, R156). -/
  | override (l : LaneId) (after : Bool)
  deriving DecidableEq, Repr

/-- R25: at FIELD-START a non-empty tally is reported for the field that has ended, and returns to 0. -/
def tallyFieldStart (p : Port) (s : State) : State :=
  let u := s.portUnit p
  if 0 < u.tally.count then
    handReport
      { cause := .writeRefused, lane := u.tally.lane, ringSlot := none, field := s.timer.f - 1,
        detail := [codeItem (portCode p), .whole (BitVec.ofNat 32 u.tally.count),
          .whole (BitVec.ofNat 32 u.tally.first.toNat)] }
      (s.setPort p { u with tally := .empty })
  else s

/-- R147: the lane's composer composes, judges and swaps: the part is RUNNING and the table holds an AIR
window for the lane. -/
def State.composing (s : State) (l : LaneId) : Bool :=
  s.unit.partState == .running && (s.windowOf .air (some l)).isSome

/-- One piece of work. -/
def runTask (s : State) : Task → State
  | .reference old => referenceReport old s
  | .tally p => tallyFieldStart p s
  | .pens l => runLane l pensFieldStart s
  | .hold l => runLane l holdFieldStart s
  | .composer l parity =>
    if s.composing l then runLane l (composerFieldStart s.unit.fieldRepeat parity) s else s
  | .compose l parity =>
    if s.composing l then runLane l (takeCompose s.unit.fieldRepeat parity) s else s
  | .onset l => runLane l enterOnset s
  | .override l after => takeOverride .ovrLine after l s

/-- Pieces of work that come together, in an order the spec leaves open (R95, R158, R159, R172, log 4). -/
def runTasks (ts : List Task) (s : State) : State :=
  let o := freshOrder ts s
  o.1.foldl runTask o.2

/-- The work of FIELD-START (R8, R25, R71, R97, R147). -/
def fieldStartTasks (parity : Parity) : List Task :=
  [.tally .h, .tally .v] ++ allLanes.map .pens ++ allLanes.map .hold ++
    allLanes.map fun l => .composer l parity

/-- The work of COMPOSE (R7, R147). -/
def composeTasks (predicted : Parity) : List Task := allLanes.map fun l => .compose l predicted

/-! ## Guard filters (R13, R14) -/

/-- R13: a filter after a sample, and whether its taken level changed. -/
def Guard.sample (g : Guard) (guard : Nat) (level : Bool) : Guard × Bool :=
  if level = g.taken then ({ g with run := 0 }, false)
  else if g.run + 1 = guard then ({ taken := level, run := 0 }, true)
  else ({ g with run := g.run + 1 }, false)

/-- The level of VAn. -/
def vaLevel (v : Levels) : LaneId → Bool
  | .l0 => v.va0
  | .l1 => v.va1
  | .l2 => v.va2
  | .l3 => v.va3

/-- R13: the sample that the guard filter of VAn takes of its line. -/
def FieldTimer.sampleVa (x : FieldTimer) (t : Timing) (v : Levels) (l : LaneId) : Guard × Bool :=
  (x.va.get l).sample t.vaGuard (vaLevel v l)

/-- R13: the sample that the guard filter of OVR takes of its line. -/
def FieldTimer.sampleOvr (x : FieldTimer) (t : Timing) (v : Levels) : Guard × Bool := x.ovr.sample t.ovrGuard v.ovr

/-- R13: the timer after each of the five filters has taken one sample. -/
def FieldTimer.sampled (x : FieldTimer) (t : Timing) (v : Levels) : FieldTimer :=
  { x with
    va := { l0 := (x.sampleVa t v .l0).1, l1 := (x.sampleVa t v .l1).1, l2 := (x.sampleVa t v .l2).1,
            l3 := (x.sampleVa t v .l3).1 },
    ovr := (x.sampleOvr t v).1 }

/-- R14: each taken rise on VAn is an onset of lane n; a fall records nothing. -/
def onsetTasks (t : Timing) (v : Levels) (x : FieldTimer) : List Task :=
  (allLanes.filter fun l => (x.sampleVa t v l).2 && vaLevel v l).map .onset

/-- R14, R156: a change of the taken OVR level that changes the effective override reaches every lane. -/
def overrideTasks (soft before after : Bool) : List Task :=
  if (before || soft) = (after || soft) then [] else allLanes.map fun l => .override l (after || soft)

/-! ## Line events (R3 to R10) -/

/-- The timer replaced. -/
def State.setTimer (s : State) (t : FieldTimer) : State := { s with timer := t }

/-- The REFERENCE report of an event that changed the reference state from `old`, if it did (R12). -/
def referenceTasks (old new : RefState) : List Task := if old = new then [] else [.reference old]

/-- R4: whether the FP that ends a field in progress is an irregular field start. -/
def irregularStart (t : Timing) (c : CurrentField) (new : Parity) : Bool :=
  c.n != t.expected c.parity || c.parity == new

/-- The parity FO gives: high for odd (section 1.1). -/
def parityOf (fo : Bool) : Parity := if fo then .odd else .even

/-- R4: the timer after a real FP. -/
def FieldTimer.realFp (x : FieldTimer) (t : Timing) (fo : Bool) : FieldTimer :=
  let parity := parityOf fo
  let irregular := match x.field with
    | some c => if irregularStart t c parity then x.irregular + 1 else x.irregular
    | none => x.irregular
  { x with
    f := x.f + 1,
    field := some { n := 1, parity := parity, origin := .real, composeRaised := false },
    refState := match x.refState with | .locked => .locked | .freewheel => .locked | .lineLost => .lineLost,
    lineTimerRunning := x.refState == .lineLost,
    irregular := irregular }

/-- What a line event other than an FP does to the field in progress (R5, R6, R7). -/
inductive LineEffect where
  | nothing
  | compose (predicted : Parity)
  | fieldStart (parity : Parity)
  deriving DecidableEq, Repr

/-- R5, R6: the timer after a real LP or a synthesised line, and what it raises. -/
def FieldTimer.line (x : FieldTimer) (t : Timing) : FieldTimer × LineEffect :=
  match x.field with
  | none => (x, .nothing)
  | some c =>
    if c.n + 1 < t.threshold c then
      if c.n + 1 = t.k ∧ c.composeRaised = false then
        ({ x with field := some { c with n := c.n + 1, composeRaised := true } }, .compose c.parity.opposite)
      else ({ x with field := some { c with n := c.n + 1 } }, .nothing)
    else
      ({ x with
          f := x.f + 1,
          field := some { n := 1, parity := c.parity.opposite, origin := .synthesised, composeRaised := false },
          refState := match x.refState with
            | .locked => .freewheel | .freewheel => .freewheel | .lineLost => .lineLost },
        .fieldStart c.parity.opposite)

/-- R10: the timer as a real LP finds and leaves the line loss; the LP absence measure restarts. -/
def FieldTimer.lpTaken (x : FieldTimer) : FieldTimer :=
  { x with
    refState := match x.refState with | .locked => .locked | .freewheel => .freewheel | .lineLost => .freewheel,
    absenceRunning := true, lineTimerRunning := false }

/-- R9: LP absence recognised. -/
def FieldTimer.lpLost (x : FieldTimer) : FieldTimer :=
  { x with refState := .lineLost, absenceRunning := false, lineTimerRunning := true }

/-- The pieces of work a line's effect gives. -/
def LineEffect.tasks : LineEffect → List Task
  | .nothing => []
  | .compose predicted => composeTasks predicted
  | .fieldStart parity => fieldStartTasks parity

/-- R3: a line event: the timer is `x` after its first part, which took it from the reference state `old` and raised
`work`; the filters sample; and the blocks take the work, the onsets and the change of the override in an order that
the spec leaves open (R158, R159, R172, log 4). -/
def lineEvent (t : Timing) (v : Levels) (old : RefState) (x : FieldTimer) (work : List Task) (s : State) : State :=
  let y := x.sampled t v
  runTasks
    (referenceTasks old x.refState ++ work ++ onsetTasks t v x ++
      overrideTasks s.unit.softOverride x.ovr.taken y.ovr.taken)
    (s.setTimer y)

/-- R3, R4: a real FP as a line event. -/
def lineFp (t : Timing) (fo : Bool) (v : Levels) (s : State) : State :=
  lineEvent t v s.timer.refState (s.timer.realFp t fo) (fieldStartTasks (parityOf fo)) s

/-- R3, R5: an LP or a synthesised line as a line event. `old` is the reference state before the event,
`x` the timer after what the event did to the reference state. -/
def lineOther (t : Timing) (v : Levels) (old : RefState) (x : FieldTimer) (s : State) : State :=
  let r := x.line t
  lineEvent t v old r.1 r.2.tasks s

end Sys2Proof.Machine
end

