-- ==== Sys2Proof/Machine/Resets.lean ====
section
/-!
DEFINITION. The meanings of POWER_ON_RESET and RESET_PIN (R32), and the answer form every meaning uses.
-/
namespace Sys2Proof.Machine

/-- What a meaning answers. -/
abbrev Answer := Host.Outcome State Fault Refusal

/-- A meaning: the next state of a command whose operands make one (log 11). -/
def answer (ok : Bool) (t : State) : Answer := if ok then .next t else .refused .illFormed

/-- R32: everything the part holds is abandoned and takes its reset values; the commands still waiting
and the counter of open orders are the model's own. -/
def resetPart (cause : ResetCause) (straps : Straps) (s : State) : State :=
  State.afterReset cause straps s.pending s.freeIndex

/-- POWER_ON_RESET (R32): reset cause POWER. -/
def execPowerOnReset (straps : Straps) (s : State) : Answer := answer true (resetPart .power straps s)

/-- RESET_PIN (R32): reset cause PIN. -/
def execResetPin (straps : Straps) (s : State) : Answer := answer true (resetPart .pin straps s)

end Sys2Proof.Machine
end

