-- ==== Sys2Proof/Machine/Lines.lean ====
section
/-!
DEFINITION. The meanings of the line events: REAL_FP, REAL_LP, SYNTHESISED_LINE, LP_ABSENCE. While the
timer is unloaded it takes no account of any of them (R1).
-/
namespace Sys2Proof.Machine

/-- R4: a real FP taken. -/
def takeFp (fo : Bool) (v : Levels) (s : State) : State :=
  match s.timer.timing with
  | some t => settle (lineFp t fo v s)
  | none => s

/-- REAL_FP (R4). -/
def execRealFp (fo : Bool) (v : Levels) (s : State) : Answer := answer true (takeFp fo v s)

/-- R5, R10: a real LP taken. -/
def takeLp (v : Levels) (s : State) : State :=
  match s.timer.timing with
  | some t => settle (lineOther t v s.timer.refState s.timer.lpTaken s)
  | none => s

/-- REAL_LP (R5). -/
def execRealLp (v : Levels) (s : State) : Answer := answer true (takeLp v s)

/-- R9: the fallback line timer expires in LINE-LOST and a synthesised line is taken. The timer makes
none in another state, and none while it does not run (log 7). -/
def takeSynthesised (v : Levels) (s : State) : State :=
  match s.timer.timing with
  | some t =>
    if s.timer.refState = .lineLost ∧ s.timer.lineTimerRunning = true then
      settle (lineOther t v .lineLost s.timer s)
    else s
  | none => s

/-- SYNTHESISED_LINE (R9). -/
def execSynthesisedLine (v : Levels) (s : State) : Answer := answer true (takeSynthesised v s)

/-- R9: LP absence recognised, and the first synthesised line taken. The measure is kept in LOCKED and
FREEWHEEL (log 7). -/
def takeAbsence (v : Levels) (s : State) : State :=
  match s.timer.timing with
  | some t =>
    if s.timer.refState ≠ .lineLost ∧ s.timer.absenceRunning = true then
      settle (lineOther t v s.timer.refState s.timer.lpLost s)
    else s
  | none => s

/-- LP_ABSENCE (R9). -/
def execLpAbsence (v : Levels) (s : State) : Answer := answer true (takeAbsence v s)

end Sys2Proof.Machine
end

