-- ==== Sys2Proof/Machine/Accesses.lean ====
section
/-!
DEFINITION. The meanings of the accesses of Port H and Port V and of the ends of accesses on Port M
(chapter 2, R168, R173, R174).
-/
namespace Sys2Proof.Machine

/-! ## Arrivals -/

/-- UPSTREAM_ACCESS (R16). -/
def execUpstreamAccess (p : Port) (x : Access) (s : State) : Answer := answer x.wf (receive p x s)

/-- A Port V burst from word 0 of the lane's AIR window (R22); without such a window there is no word to
read (log 7, log 26). -/
def readAir (l : LaneId) (count : Nat) (s : State) : State :=
  match s.windowOf .air (some l) with
  | some w => receive .v { addr := w.base, xfer := .read count } s
  | none => s

/-- AIR_WORD0_READ (R22). -/
def execAirWord0Read (l : LaneId) (count : Nat) (s : State) : Answer :=
  answer (burstOk count) (readAir l count s)

/-- A Port H write of report header word 1 (R23); without a REPORT window there is no such word (log 7). -/
def writeConsume (index : Word) (s : State) : State :=
  match s.windowOf .report none with
  | some w => receive .h { addr := w.base + 4, xfer := .write [index] } s
  | none => s

/-- CONSUME_INDEX_WRITE (R174). -/
def execConsumeIndexWrite (index : Word) (s : State) : Answer := answer true (writeConsume index s)

/-- The Port H burst that writes 1 to the start word and `rest` after it (R166). -/
def startAccess (rest : List Word) (s : State) : Access :=
  { addr := BitVec.ofNat 28 s.bootBase, xfer := .write (1 :: rest) }

/-- START (R168): validated and carried out when the words are taken in SETUP. -/
def execStart (rest : List Word) (s : State) : Answer :=
  answer (burstOk (rest.length + 1)) (receive .h (startAccess rest s) s)

/-! ## Ends -/

/-- The access is an upstream port's. -/
def ofPort : Owner → Bool
  | .port _ => true
  | .engine _ => false

/-- The access is a disposition write-back. -/
def ofWriteback : Owner → Bool
  | .engine (.writeBack _) => true
  | .engine (.fetch _) => false
  | .engine .report => false
  | .engine .setupResult => false
  | .port _ => false

/-- The access is a script fetch burst. -/
def ofFetch : Owner → Bool
  | .engine (.fetch _) => true
  | .engine (.writeBack _) => false
  | .engine .report => false
  | .engine .setupResult => false
  | .port _ => false

/-- UPSTREAM_ACCESS_END (R24). -/
def execUpstreamAccessEnd (a : MemAnswer) (s : State) : Answer := answer true (answerIf ofPort a s)

/-- R26: the response timer expires; it runs exactly while Port M is BUSY. -/
def expire (s : State) : State :=
  match s.path.portM with
  | some m => endAccess m .expired s
  | none => s

/-- RESPONSE_TIMER_EXPIRY (R26). -/
def execResponseTimerExpiry (s : State) : Answer := answer true (expire s)

/-- LATE_MEMORY_ANSWER (R26, R32): discarded, without effect. -/
def execLateMemoryAnswer (_a : MemAnswer) (s : State) : Answer := answer true s

/-- DISPOSITION_WRITEBACK_END (R40). -/
def execDispositionWritebackEnd (s : State) : Answer := answer true (answerIf ofWriteback (.done []) s)

/-- SCRIPT_FETCH_BURST_END (R125). -/
def execScriptFetchBurstEnd (a : MemAnswer) (s : State) : Answer := answer true (answerIf ofFetch a s)

/-- REPORT_ACCESS_END (R173). -/
def execReportAccessEnd (s : State) : Answer :=
  answer true (answerIf (fun o => o == .engine .report) (.done []) s)

/-- SETUP_RESULT_WRITE_END (R31): the part state stays as START decided it. -/
def execSetupResultWriteEnd (s : State) : Answer :=
  answer true (answerIf (fun o => o == .engine .setupResult) (.done []) s)

end Sys2Proof.Machine
end

