-- ==== Sys2Proof/Machine/IngestCommands.lean ====
section
/-!
DEFINITION. The meanings of the five ingest records. Each command is the host's recommended 16-word burst
(section 3.2, Programming Note), presented at Port H and carrying the record to a slot of the lane's
ingest ring (log 6); the record is processed when the burst's words are taken.
-/
namespace Sys2Proof.Machine

/-- The burst that writes a record to a slot of an assembler's ring, when the table holds that slot. -/
def ringAccess (a : AsmId) (slot : Nat) (words : List Word) (s : State) : Option Access :=
  match s.ringWindow a with
  | some w =>
    if slot < w.length / 64 then
      some { addr := w.base + BitVec.ofNat 28 (64 * slot), xfer := .write words }
    else none
  | none => none

/-- The host writes a record to a slot of a ring; without such a slot there is nothing to write to
(log 7). -/
def hostWrites (a : AsmId) (slot : Nat) (words : List Word) (s : State) : State :=
  match ringAccess a slot words s with
  | some x => receive .h x s
  | none => s

/-- The host writes an ingest record. -/
def hostRecord (k : IngestKind) (l : LaneId) (slot : Nat) (r : IngestFields) (s : State) : Answer :=
  answer (ingestSlotOk slot && r.wf) (hostWrites (.lane l) slot (ingestWords k r) s)

/-- TOKEN (R66): `tokenEffect` is its effect in the lane. -/
def execToken (l : LaneId) (slot : Nat) (r : IngestFields) (s : State) : Answer := hostRecord .token l slot r s

/-- CORRECT (R106): `correctUnit` and `standbyCorrect` are its effects in the lane. -/
def execCorrect (l : LaneId) (slot : Nat) (r : IngestFields) (s : State) : Answer :=
  hostRecord .correct l slot r s

/-- OFFER (R59): `offerEffect` is its effect in the lane. -/
def execOffer (l : LaneId) (slot : Nat) (r : IngestFields) (s : State) : Answer := hostRecord .offer l slot r s

/-- TAKE (R60): `takeEffect` is its effect in the lane. -/
def execTake (l : LaneId) (slot : Nat) (r : IngestFields) (s : State) : Answer := hostRecord .take l slot r s

/-- KEEPALIVE (R55): `barredEffect` is its effect for a barred pen; hearing and sequence are `wellFormedRecord`. -/
def execKeepalive (l : LaneId) (slot : Nat) (r : IngestFields) (s : State) : Answer :=
  hostRecord .keepalive l slot r s

end Sys2Proof.Machine
end

