-- ==== Sys2Proof/Machine/DirectiveCommands.lean ====
section
/-!
DEFINITION. The meanings of the directives: the host's recommended 16-word burst, presented at Port H and
carrying the command record to a slot of the command ring (log 6); the directive is processed when the
burst's words are taken.
-/
namespace Sys2Proof.Machine

/-- The host writes a command record. -/
def hostDirective (slot : Nat) (words : List Word) (s : State) : Answer :=
  answer (commandSlotOk slot) (hostWrites .command slot words s)

/-- Word 1 of a directive that names a lane and nothing else there. -/
def laneWord (lane : BitVec 8) : Word := mkWord [lane.toNat]

/-- LANE_SET_ENABLE (R88): `acceptLaneSet` is its effect. -/
def execLaneSetEnable (slot : Nat) (p : LaneSetFields) (s : State) : Answer :=
  hostDirective slot (laneSetWords true p) s

/-- LANE_SET_DISABLE (R89): `acceptLaneSet` is its effect. -/
def execLaneSetDisable (slot : Nat) (p : LaneSetFields) (s : State) : Answer :=
  hostDirective slot (laneSetWords false p) s

/-- PEN_SET (R51): `acceptPenSet` is its effect. -/
def execPenSet (slot : Nat) (lane : BitVec 8) (penSlot : Bool) (floor : Bool) (pen : Half) (check : Half)
    (s : State) : Answer :=
  hostDirective slot
    (directiveWords .penSet (mkWord [lane.toNat, place (bit penSlot) 8, place (bit floor) 9])
      (mkWord [pen.toNat]) [] check) s

/-- CUE (R121): `acceptCue` is its effect. -/
def execCue (slot : Nat) (lane : BitVec 8) (first : BitVec 12) (count : BitVec 13) (check : Half) (s : State) :
    Answer :=
  hostDirective slot
    (directiveWords .cue (laneWord lane) (mkWord [first.toNat, place count.toNat 16]) [] check) s

/-- UNCUE (R122): `acceptUncue` is its effect. -/
def execUncue (slot : Nat) (lane : BitVec 8) (check : Half) (s : State) : Answer :=
  hostDirective slot (directiveWords .uncue (laneWord lane) 0 [] check) s

/-- LINK (R162): `acceptLink` is its effect. -/
def execLink (slot : Nat) (lane : BitVec 8) (mode : BitVec 2) (check : Half) (s : State) : Answer :=
  hostDirective slot (directiveWords .link (laneWord lane) (mkWord [mode.toNat]) [] check) s

/-- OVERRIDE (R156): `acceptOverride` is its effect. -/
def execOverride (slot : Nat) (on : Bool) (check : Half) (s : State) : Answer :=
  hostDirective slot (directiveWords .override 0 (mkWord [bit on]) [] check) s

/-- FLUSH (R98): `flushLane` is its effect. -/
def execFlush (slot : Nat) (lane : BitVec 8) (check : Half) (s : State) : Answer :=
  hostDirective slot (directiveWords .flush (laneWord lane) 0 [] check) s

/-- RESTORE (R56): `acceptRestore` is its effect. -/
def execRestore (slot : Nat) (lane : BitVec 8) (penSlot : Bool) (check : Half) (s : State) : Answer :=
  hostDirective slot (directiveWords .restore (mkWord [lane.toNat, place (bit penSlot) 8]) 0 [] check) s

/-- SNAPSHOT (R171): `acceptSnapshot` is its effect. -/
def execSnapshot (slot : Nat) (lane : BitVec 8) (check : Half) (s : State) : Answer :=
  hostDirective slot (directiveWords .snapshot (laneWord lane) 0 [] check) s

/-- STOP (R169): accepted; `stopTakesEffect` follows when its write-back ends or is withdrawn. -/
def execStop (slot : Nat) (check : Half) (s : State) : Answer :=
  hostDirective slot (directiveWords .stop 0 0 [] check) s

end Sys2Proof.Machine
end

