-- ==== Sys2Proof/Machine/Dispatch.lean ====
section
/-!
DEFINITION. One arm for each command: its meaning.
-/
namespace Sys2Proof.Machine

def exec (i : Instr) (s : State) : Host.Outcome State Fault Refusal :=
  match i with
  | .powerOnReset straps => Sys2Proof.Machine.execPowerOnReset straps s
  | .resetPin straps => Sys2Proof.Machine.execResetPin straps s
  | .realFp fo levels => Sys2Proof.Machine.execRealFp fo levels s
  | .realLp levels => Sys2Proof.Machine.execRealLp levels s
  | .synthesisedLine levels => Sys2Proof.Machine.execSynthesisedLine levels s
  | .lpAbsence levels => Sys2Proof.Machine.execLpAbsence levels s
  | .upstreamAccess port access => Sys2Proof.Machine.execUpstreamAccess port access s
  | .airWord0Read lane count => Sys2Proof.Machine.execAirWord0Read lane count s
  | .consumeIndexWrite index => Sys2Proof.Machine.execConsumeIndexWrite index s
  | .start rest => Sys2Proof.Machine.execStart rest s
  | .upstreamAccessEnd answer => Sys2Proof.Machine.execUpstreamAccessEnd answer s
  | .responseTimerExpiry => Sys2Proof.Machine.execResponseTimerExpiry s
  | .lateMemoryAnswer answer => Sys2Proof.Machine.execLateMemoryAnswer answer s
  | .dispositionWritebackEnd => Sys2Proof.Machine.execDispositionWritebackEnd s
  | .token lane slot r => Sys2Proof.Machine.execToken lane slot r s
  | .correct lane slot r => Sys2Proof.Machine.execCorrect lane slot r s
  | .offer lane slot r => Sys2Proof.Machine.execOffer lane slot r s
  | .take lane slot r => Sys2Proof.Machine.execTake lane slot r s
  | .keepalive lane slot r => Sys2Proof.Machine.execKeepalive lane slot r s
  | .scriptFetchBurstEnd answer => Sys2Proof.Machine.execScriptFetchBurstEnd answer s
  | .laneSetEnable slot p => Sys2Proof.Machine.execLaneSetEnable slot p s
  | .laneSetDisable slot p => Sys2Proof.Machine.execLaneSetDisable slot p s
  | .penSet slot lane penSlot floor pen check => Sys2Proof.Machine.execPenSet slot lane penSlot floor pen check s
  | .cue slot lane first count check => Sys2Proof.Machine.execCue slot lane first count check s
  | .uncue slot lane check => Sys2Proof.Machine.execUncue slot lane check s
  | .link slot lane mode check => Sys2Proof.Machine.execLink slot lane mode check s
  | .override slot on check => Sys2Proof.Machine.execOverride slot on check s
  | .flush slot lane check => Sys2Proof.Machine.execFlush slot lane check s
  | .restore slot lane penSlot check => Sys2Proof.Machine.execRestore slot lane penSlot check s
  | .snapshot slot lane check => Sys2Proof.Machine.execSnapshot slot lane check s
  | .stop slot check => Sys2Proof.Machine.execStop slot check s
  | .reportAccessEnd => Sys2Proof.Machine.execReportAccessEnd s
  | .setupResultWriteEnd => Sys2Proof.Machine.execSetupResultWriteEnd s

end Sys2Proof.Machine
end

