-- ==== Sys2Proof/Safety.lean ====
section
/-!
DEFINITION. What counts as a safe run, and the conditions on a state that statements use.
-/
namespace Sys2Proof.Machine

/-! ## Runs -/

/-- The states a run from reset can be in, whatever commands are put in its queue from outside (log 21). -/
inductive Reachable : State → Prop where
  | reset : Reachable State.reset
  | queue {s : State} (cs : List Instr) : Reachable s → Reachable (s.withPending cs)
  | step {s t : State} : Reachable s → step s = .next t → Reachable t

/-- A step is safe when it neither faults nor refuses. -/
def Safe (s : State) : Prop := ∃ t, step s = .next t

/-- Every waiting command has operands that make one (log 11). -/
def WellFed (s : State) : Prop := ∀ c ∈ s.pending, c.wf = true

/-! ## A record written in one burst -/

/-- The host's burst to slot `slot` of the ring of `a` is granted Port M at its arrival, and its record finds
both stages of the assembler empty: the part is RUNNING, Port H is IDLE, Port M is FREE and nobody else
waits for it (R16, R27); the ring's window `w` holds the slot, lies below the top of the address space, and
is the one window of its addresses (R18, R33, R167); the assembler is empty (R34, R38). -/
structure Ready (a : AsmId) (slot : Nat) (w : Window) (s : State) : Prop where
  running : s.unit.partState = .running
  idle : s.path.h.state = .idle
  free : s.path.portM = none
  noV : s.path.v.waiting? = none
  noEntry : s.engine.requests = []
  window : s.ringWindow a = some w
  slotIn : slot < w.length / 64
  top : w.base.toNat + w.length ≤ 2 ^ 28
  alone : ∀ x : Addr, w.covers x = true → s.regionOf x = .window w
  stage : (s.asm.get a).stage = .empty
  handoff : (s.asm.get a).handoff = none

/-- The record the assembler holds when a burst of sixteen words has been taken: word 2 and the arrival
field are the field count (R36). -/
def burstRecord (slot : Nat) (ws : List Word) (s : State) : Rec :=
  { slot := slot, words := ws.set 2 s.timer.f, arrival := s.timer.f }

/-- The part with the burst's access granted Port M and none of its words taken yet: Port H is IN-FLIGHT and
the last served. -/
def grantedBurst (w : Window) (slot : Nat) (s : State) : State :=
  ((s.setServed .portH).setPort .h { s.path.h with state := .inFlight }).setPortM
    (some { owner := .port .h, addr := w.base + BitVec.ofNat 28 (64 * slot), isWrite := true, words := [],
            orphan := false })

/-- The access on Port M after the burst's words were taken: word 2 leaves stamped (R20, R36). -/
def burstOnPortM (w : Window) (slot : Nat) (ws : List Word) (s : State) : MAccess :=
  { owner := .port .h, addr := w.base + BitVec.ofNat 28 (64 * slot), isWrite := true,
    words := (ws.set 2 s.timer.f).map .store, orphan := false }

/-- The part after a burst that found it ready: the record is processed, and the access is on Port M. -/
def afterBurst (a : AsmId) (slot : Nat) (w : Window) (ws : List Word) (s : State) : State :=
  (processRecord a (burstRecord slot ws s) (grantedBurst w slot s)).setPortM (some (burstOnPortM w slot ws s))

/-! ## Lanes -/

/-- R101: the eight places of an admitted token. -/
def Counters.places (k : Counters) : Counter :=
  k.held + k.queued + k.emitted + k.retracted + k.discPressure + k.discStale + k.discOverride + k.discFlush

/-- A partly composed entry is the head alone (R109); one whose characters stand on the bottom row is the
entry of the last span there, which has the greatest start column; spans start within the row (R145). -/
def Composer.Aligned (x : Composer) : Prop :=
  (∀ e ∈ x.emission.tail, e.composed = 0) ∧
  (∀ q ∈ x.rows.spans, q.start ≤ x.rows.column) ∧
  (∀ e ∈ x.emission.head?, e.composed ≠ 0 →
    (e.cleared = true → x.rows.spans = []) ∧
    (∀ p ∈ x.rows.spans.getLast?, p.copy = e.body ∧ ∀ q ∈ x.rows.spans, q.start ≤ p.start))

/-- R101: the accounting of admitted tokens, in a lane whose composer is aligned. -/
structure Lane.Accounted (x : Lane) : Prop where
  sum : x.hold.counters.admitted = x.hold.counters.places
  held : x.hold.counters.held = BitVec.ofNat 32 x.hold.queue.length
  queued : x.hold.counters.queued = BitVec.ofNat 32 (tokenCount x.composer.emission)
  aligned : x.composer.Aligned

/-- The capacities of a lane's queues and lists (R67, R74, R92, R104, R140). -/
structure Lane.Bounded (x : Lane) : Prop where
  hold : x.hold.queue.length ≤ Config.holdCap
  emission : x.composer.emission.length ≤ Config.emissionCap
  standby : x.pens.standby.length ≤ Config.standbyCap
  onsets : x.tracker.onsets.length ≤ Config.onsetCap
  recent : ∀ k, (x.recent.get k).length ≤ Config.recentCap

/-- R58, R50, R54, R67: at most one slot has the floor, none barred; the floor is vacant exactly when none
has it; an empty slot has role NONE and no other has; the slots hold different pens; fault counts lie in
0 to 200; standby-list entries are of a slot with role STANDBY. -/
structure Lane.FloorOk (x : Lane) : Prop where
  single : ¬ (x.pens.slots.a.role = .floor ∧ x.pens.slots.b.role = .floor)
  vacant : x.pens.floor = .vacant ↔ (x.pens.slots.a.role ≠ .floor ∧ x.pens.slots.b.role ≠ .floor)
  empty : ∀ k, (x.pens.slots.get k).role = .none ↔ (x.pens.slots.get k).pen = 0
  barred : ∀ k, (x.pens.slots.get k).role = .floor → (x.pens.slots.get k).health ≠ .barred
  distinct : x.pens.slots.a.pen ≠ 0 → x.pens.slots.a.pen ≠ x.pens.slots.b.pen
  fault : ∀ k, (x.pens.slots.get k).fault ≤ 200
  shadow : ∀ e ∈ x.pens.standby, (x.pens.slots.get e.slot).role = .standby

/-- R82: L is never greater than D. -/
def Lane.Timed (x : Lane) : Prop := x.tracker.l ≤ x.tracker.d

/-- R157: a lane that is not OFF is in the state its link mode and the effective override give. -/
def State.HoldsOk (s : State) : Prop :=
  ∀ l, (s.lanes.get l).hold.state ≠ .off →
    (s.lanes.get l).hold.state =
      if s.overrideOn then
        (match (s.lanes.get l).link with | .none => .run | .soft => .softHeld | .hard => .hardHeld)
      else .run

/-! ## Port M and the Transfer Engine -/

/-- R27: nobody waits for a FREE Port M. -/
def State.NoneWaits (s : State) : Prop :=
  s.path.portM = none → s.path.h.waiting? = none ∧ s.path.v.waiting? = none ∧ s.engine.requests = []

/-- R16, R26, R30: the access on Port M is an IN-FLIGHT port's, or the port's access is there; a requester has
at most one access in the list or on Port M; an access that waits for its requester's earlier one finds it
there. -/
structure State.PathOk (s : State) : Prop where
  portH : s.path.h.state = .inFlight ↔ ∃ m, s.path.portM = some m ∧ m.owner = .port .h
  portV : s.path.v.state = .inFlight ↔ ∃ m, s.path.portM = some m ∧ m.owner = .port .v
  once : (s.engine.requests.map (·.requester)).Nodup
  apart : ∀ q ∈ s.engine.requests, ∀ m, s.path.portM = some m → m.owner ≠ .engine q.requester
  deferred : ∀ q ∈ s.engine.deferred, s.requesterBusy q.requester = true
  waits : s.NoneWaits

/-- R172: the staging queue holds at most 8 reports. -/
def State.StagingOk (s : State) : Prop := s.report.staging.length ≤ Config.stagingCap

/-- The setup copy has its 128 words (R166). -/
def State.SetupOk (s : State) : Prop := s.unit.setupCopy.length = 128

/-! ## What a record's burst leaves -/

/-- The record a command carries: its assembler, its slot and its sixteen words. -/
def recordOf : Instr → Option (AsmId × Nat × List Word)
  | .token l slot r => some (.lane l, slot, ingestWords .token r)
  | .correct l slot r => some (.lane l, slot, ingestWords .correct r)
  | .offer l slot r => some (.lane l, slot, ingestWords .offer r)
  | .take l slot r => some (.lane l, slot, ingestWords .take r)
  | .keepalive l slot r => some (.lane l, slot, ingestWords .keepalive r)
  | .laneSetEnable slot p => some (.command, slot, laneSetWords true p)
  | .laneSetDisable slot p => some (.command, slot, laneSetWords false p)
  | .penSet slot lane b floor pen check =>
    some (.command, slot, directiveWords .penSet (mkWord [lane.toNat, place (bit b) 8, place (bit floor) 9])
      (mkWord [pen.toNat]) [] check)
  | .cue slot lane first count check =>
    some (.command, slot, directiveWords .cue (laneWord lane)
      (mkWord [first.toNat, place count.toNat 16]) [] check)
  | .uncue slot lane check => some (.command, slot, directiveWords .uncue (laneWord lane) 0 [] check)
  | .link slot lane mode check =>
    some (.command, slot, directiveWords .link (laneWord lane) (mkWord [mode.toNat]) [] check)
  | .override slot on check => some (.command, slot, directiveWords .override 0 (mkWord [bit on]) [] check)
  | .flush slot lane check => some (.command, slot, directiveWords .flush (laneWord lane) 0 [] check)
  | .restore slot lane b check =>
    some (.command, slot, directiveWords .restore (mkWord [lane.toNat, place (bit b) 8]) 0 [] check)
  | .snapshot slot lane check => some (.command, slot, directiveWords .snapshot (laneWord lane) 0 [] check)
  | .stop slot check => some (.command, slot, directiveWords .stop 0 0 [] check)
  | _ => none

/-- The check value the record carries is the one computed over it (R43). -/
def rightCheck (ws : List Word) : Prop := recordCheck ws = lowHalf (wordAt ws 15)

/-- What the burst of a processed record leaves beside the record's effect: the access on Port M, the record
with its disposition in the handoff stage, its write-back in the request list; the timer, the other port, the
other assemblers, the window table and the Command Unit but for the override flag are as they were (R27,
R36, R38, R39, R47). -/
structure Recorded (a : AsmId) (slot : Nat) (w : Window) (ws : List Word) (d : Disposition) (isStop : Bool)
    (s t : State) : Prop where
  pending : t.pending = s.pending
  timer : t.timer = s.timer
  path : t.path =
    { s.path with h := { s.path.h with state := .inFlight }, lastServed := .portH,
                  portM := some (burstOnPortM w slot ws s) }
  asm : t.asm = s.asm.set a
    { s.asm.get a with handoff := some { record := burstRecord slot ws s, disp := d, isStop := isStop } }
  entry : { requester := .writeBack a, addr := dispositionAddr w.base slot, xfer := .write [d.word] } ∈
    t.engine.requests
  unit : t.unit = { s.unit with softOverride := t.unit.softOverride }

/-- The Report Unit, the lanes and the software override flag are as they were. -/
structure Untouched (s t : State) : Prop where
  lanes : t.lanes = s.lanes
  report : t.report = s.report
  soft : t.unit.softOverride = s.unit.softOverride

/-- The form tests of R44 as a record's fields meet them. -/
structure GoodForm (kind : IngestKind) (r : IngestFields) : Prop where
  length : if kind = .token then 1 ≤ r.length.toNat ∧ r.length.toNat ≤ 20 else r.length.toNat = 0
  argument : kind = .correct → 1 ≤ r.argument.toNat ∧ r.argument.toNat ≤ 8
  chars : ∀ ch ∈ (charsOf r.text).take r.length.toNat, 0x20 ≤ ch.toNat

/-- The text of a TOKEN. -/
def typedText (r : IngestFields) : List Half := (charsOf r.text).take r.length.toNat

/-- A record of pen slot `k` that passes the tests 1 to 5 of R45 in a lane that is not OFF: its burst finds the
part ready, its check value is right, it is well formed and its pen is the one in the slot. -/
structure Heard (kind : IngestKind) (l : LaneId) (slot : Nat) (w : Window) (k : SlotId) (r : IngestFields)
    (s : State) : Prop where
  ready : Ready (.lane l) slot w s
  slotOk : ingestSlotOk slot = true
  text : r.text.length = 10
  check : r.check = recordCheck (ingestWords kind r)
  form : GoodForm kind r
  on : (s.lanes.get l).hold.state ≠ .off
  pen : (s.lanes.get l).pens.slotOf r.pen = some k

/-- Such a record in sequence, from a pen that is not BARRED (R53, R54). -/
structure InOrder (kind : IngestKind) (l : LaneId) (slot : Nat) (w : Window) (k : SlotId) (r : IngestFields)
    (s : State) : Prop where
  heard : Heard kind l slot w k r s
  base : ((s.lanes.get l).pens.slots.get k).base = none ∨
    ((s.lanes.get l).pens.slots.get k).base = some (r.seq - 1)
  unbarred : ((s.lanes.get l).pens.slots.get k).fault < 200

/-- A pen slot after a good record of its pen: heard, in sequence, one fault less (R52, R53, R54). -/
def PenSlot.afterGood (p : PenSlot) (now : Field) (seq : Half) : PenSlot :=
  { p with lastHeard := now, silent := false, base := some seq, fault := p.fault - 1 }

/-- The good record leaves the slot's health as it was, so R52 step 6 makes no evaluation and R54 no
report. -/
def PenSlot.calm (p : PenSlot) : Prop := healthOf (p.fault - 1) = healthOf p.fault

/-- ACCEPTED with a detail and the health that the slot has after the record (R45, R47). -/
def acceptedOf (detail : Nat) (fault : Nat) : Disposition :=
  { outcome := .accepted, detail := detail, gap := false, health := some (healthOf fault) }

/-- The pens of a lane with one slot replaced. -/
def Pens.withSlot (p : Pens) (k : SlotId) (x : PenSlot) : Pens := { p with slots := p.slots.set k x }

/-- A directive for lane `l` whose burst finds the part ready: the ring slot is one of the command ring, and the
lane has an INGEST window (R170 test 1). -/
structure Directed (slot : Nat) (w : Window) (lane : BitVec 8) (l : LaneId) (s : State) : Prop where
  ready : Ready .command slot w s
  slotOk : commandSlotOk slot = true
  lane : lane.toNat = laneNum l
  ingest : (s.windowOf .ingest (some l)).isSome = true

/-- ACCEPTED as a directive receives it (Table 12-3). -/
def directiveAccepted : Disposition := { outcome := .accepted, detail := 0, gap := false, health := none }

/-- REFUSED as a directive receives it, with its reason's code (R170, Table 12-3). -/
def directiveRefused (reason : Nat) : Disposition :=
  { outcome := .refused, detail := reason, gap := false, health := none }

/-- The parameters of a LANE-SET in the ranges of Table 11-3. -/
structure LaneSetInRange (p : LaneSetFields) : Prop where
  d : 1 ≤ p.d.toNat
  lmax : 1 ≤ p.lmax.toNat ∧ p.lmax.toNat ≤ p.d.toNat
  s : 1 ≤ p.s.toNat
  g : 1 ≤ p.g.toNat
  initial : p.initial.toNat ≤ p.d.toNat
  q : 1 ≤ p.q.toNat
  takeWindow : 1 ≤ p.takeWindow.toNat
  c : 1 ≤ p.c.toNat ∧ p.c.toNat ≤ 8
  r : 2 ≤ p.r.toNat ∧ p.r.toNat ≤ 4
  w : 16 ≤ p.w.toNat ∧ p.w.toNat ≤ 40
  marker : 0x20 ≤ (lowHalf p.corrMarker).toNat ∧ 0x20 ≤ (highHalf p.corrMarker).toNat
  speaker : 0x20 ≤ (lowHalf p.spkMarker).toNat ∧ 0x20 ≤ (highHalf p.spkMarker).toNat

/-! ## Line events -/

/-- What a line event other than an FP does to the field count and the field in progress (R5, R6, R7):
without a field in progress, nothing; below the synthesis threshold the line count advances, and the
compose-raised mark is set where it reaches K; otherwise a synthesised field of the other parity starts. -/
def FieldAfterLine (t : Timing) (old new : FieldTimer) : Prop :=
  match old.field with
  | none => new.field = none ∧ new.f = old.f
  | some c =>
    if c.n + 1 < t.threshold c then
      new.field = some { c with n := c.n + 1, composeRaised := c.composeRaised || c.n + 1 == t.k } ∧
        new.f = old.f
    else
      new.field = some { n := 1, parity := c.parity.opposite, origin := .synthesised, composeRaised := false } ∧
        new.f = old.f + 1

/-- Every guard filter has taken one sample of its line, and the timing values stand (R13). -/
structure Sampled (t : Timing) (v : Levels) (old new : FieldTimer) : Prop where
  timing : new.timing = old.timing
  va : ∀ l, new.va.get l = ((old.va.get l).sample t.vaGuard (vaLevel v l)).1
  ovr : new.ovr = (old.ovr.sample t.ovrGuard v.ovr).1

/-- What no line event reaches: the queue, the assemblers, the ports' states and responses, the setup copy and
the override flag; and, outside STOPPING, the part state, the window table and the reset cause. -/
structure LineFrame (s t : State) : Prop where
  pending : t.pending = s.pending
  asm : t.asm = s.asm
  portH : t.path.h.state = s.path.h.state ∧ t.path.h.response = s.path.h.response
  portV : t.path.v.state = s.path.v.state ∧ t.path.v.response = s.path.v.response
  limit : t.path.memLimit = s.path.memLimit
  copy : t.unit.setupCopy = s.unit.setupCopy
  soft : t.unit.softOverride = s.unit.softOverride
  unit : s.unit.partState ≠ .stopping → t.unit = s.unit ∧ t.path.windows = s.path.windows

/-- What an access's end or arrival never reaches when it takes no word of a window: everything but the Memory
Path and the Transfer Engine. -/
structure PathOnly (s t : State) : Prop where
  pending : t.pending = s.pending
  timer : t.timer = s.timer
  asm : t.asm = s.asm
  lanes : t.lanes = s.lanes
  unit : t.unit = s.unit
  report : t.report = s.report

/-- No upstream port waits for Port M. -/
def State.PortsQuiet (s : State) : Prop := s.path.h.waiting? = none ∧ s.path.v.waiting? = none

/-- The access on Port M is a requester's of the Transfer Engine, its outcome is wanted, no upstream port
waits, and the part is RUNNING. -/
structure EngineEnds (r : Requester) (m : MAccess) (s : State) : Prop where
  onPortM : s.path.portM = some m
  owner : m.owner = .engine r
  wanted : m.orphan = false
  running : s.unit.partState = .running
  quiet : s.PortsQuiet

/-- The entry waits in the request list or has been granted Port M (R30). -/
def State.Entered (t : State) (q : Request) : Prop :=
  q ∈ t.engine.requests ∨ t.path.portM = some (engineAccess q)

/-! ## The report writer (R173) -/

/-- The write of record `i` of a report whose first record goes to ring position `produce` (R173 step 2). -/
def State.recordWrite (s : State) (produce i : Nat) (r : Report) : Request :=
  { requester := .report, addr := recordAddr s.reportBase ((produce + i) % s.report.size),
    xfer := .write (r.recordWords i) }

/-- The write of a header word of the report ring (R168 step 5, R173 steps 3 and 4). -/
def State.headerWrite (s : State) (k : Nat) (value : Word) : Request :=
  { requester := .report, addr := wordAddr s.reportBase k, xfer := .write [value] }

/-- The Report Unit after an idle writer has made the room test: the reports at the front that find too few free
records are dropped and counted, and the first that has room is begun (R173 step 1, log 17). -/
def ReportUnit.begun (r : ReportUnit) : ReportUnit :=
  let d := dropFull r.freeRecords r.staging r.dropped
  { r with staging := d.1, dropped := d.2, phase := if d.1.isEmpty then .idle else .record 0 }

/-! ## What a hold leaves of a lane (R158 to R161) -/

/-- R158: the row image emptied, the erase debt 0, a CLEAR pending; the queues kept. -/
def Lane.afterSoftStart (x : Lane) : Lane :=
  { x with
    hold := { x.hold with state := .softHeld },
    composer := { x.composer with
      rows := .empty, eraseDebt := 0, pendingClear := true,
      emission := x.composer.emission.map Entry.afterEmptying } }

/-- R159: the entries due earlier than F less the stale limit are discarded, but for those begun and the markers. -/
def Lane.afterSoftEnd (x : Lane) (now : Field) : Lane :=
  let stale := fun t : Tok => earlier t.due (now - BitVec.ofNat 32 x.stale)
  let staleHere := fun e : Entry => e.composed == 0 && e.body.tok?.any stale
  let held := BitVec.ofNat 32 (x.hold.queue.countP stale)
  let queued := BitVec.ofNat 32 (x.composer.emission.countP staleHere)
  { x with
    hold := { x.hold with
      state := .run, queue := x.hold.queue.filter fun t => !stale t,
      counters := { x.hold.counters with
        held := x.hold.counters.held - held, queued := x.hold.counters.queued - queued,
        discStale := x.hold.counters.discStale + (held + queued) } },
    composer := { x.composer with emission := x.composer.emission.filter fun e => !staleHere e } }

/-- R160, R135: both queues and the three kinds of lists emptied and counted, the row image emptied with a CLEAR
pending, a LOCKED follower CUED; the tracker's flags, the cue, the buffer and the cursor kept. -/
def Lane.afterHardStart (x : Lane) : Lane :=
  let held := BitVec.ofNat 32 x.hold.queue.length
  let queued := BitVec.ofNat 32 (tokenCount x.composer.emission)
  { x with
    hold := { x.hold with
      state := .hardHeld, queue := [],
      counters := { x.hold.counters with
        held := x.hold.counters.held - held, queued := x.hold.counters.queued - queued,
        discOverride := x.hold.counters.discOverride + (held + queued),
        standbyDiscarded := x.hold.counters.standbyDiscarded + BitVec.ofNat 32 x.pens.standby.length } },
    composer := { x.composer with emission := [], rows := .empty, eraseDebt := 0, pendingClear := true },
    pens := { x.pens with standby := [] },
    recent := { a := [], b := [] },
    tracker := { x.tracker with onsets := [] },
    follower := { x.follower with
      state := if x.follower.state = .locked then .cued else x.follower.state,
      missRun := 0, seek := none } }

/-- R161: both tracker flags set. -/
def Lane.afterHardEnd (x : Lane) : Lane :=
  { x with
    hold := { x.hold with state := .run },
    tracker := { x.tracker with hardAlign := true, startPending := true } }

/-- R156: the effective override turns on: a lane in RUN takes the hold of its link mode. -/
def Lane.afterHoldStart (x : Lane) : Lane :=
  if x.hold.state = .run then
    match x.link with | .none => x | .soft => x.afterSoftStart | .hard => x.afterHardStart
  else x

/-- R156: the effective override turns off: a held lane ends its hold. -/
def Lane.afterHoldEnd (x : Lane) (now : Field) : Lane :=
  match x.hold.state with
  | .off => x
  | .run => x
  | .softHeld => x.afterSoftEnd now
  | .hardHeld => x.afterHardEnd

/-- R162: a LINK changes the mode of a lane that is not OFF while the override is on. -/
def Lane.afterLink (x : Lane) (mode : LinkMode) (now : Field) : Lane :=
  let y := { x with link := mode }
  match x.link, mode with
  | .none, .none => y
  | .none, .soft => y.afterSoftStart
  | .none, .hard => y.afterHardStart
  | .soft, .none => y.afterSoftEnd now
  | .soft, .soft => y
  | .soft, .hard => y.afterHardStart
  | .hard, .none => y.afterHardEnd
  | .hard, .soft => y.afterHardEnd.afterSoftStart
  | .hard, .hard => y

/-- The OVERRIDE report of a change of lane state, with the tokens and standby entries discarded (R163). -/
def LaneCtx.holdEffect (c : LaneCtx) (cause : HoldCause) (old new : LaneState) (link : LinkMode)
    (tokens standby : Nat) : Effect :=
  .report
    { cause := .override, lane := .lane c.id, ringSlot := none, field := c.now,
      detail := [codeItem old.code, codeItem new.code, codeItem cause.code, flagItem c.ovrLevel,
        flagItem c.softFlag, codeItem link.code, halfItem tokens, halfItem standby] }

/-- The SCRIPT-STATE report of a LOCKED follower at the start of a hard hold (R135, R137); none in another state. -/
def LaneCtx.unlockEffect (c : LaneCtx) (f : Follower) : List Effect :=
  if f.state = .locked then
    [.report
      { cause := .scriptState, lane := .lane c.id, ringSlot := none, field := c.now,
        detail := [codeItem FollowState.locked.code, codeItem FollowState.cued.code, codeItem ScriptCause.hold.code,
          halfItem (match f.cue with | some q => q.first | none => 0),
          halfItem (match f.cue with | some q => q.count | none => 0), halfItem f.cursor,
          .whole f.skipCount, .whole f.starvedCount] }]
  else []

end Sys2Proof.Machine
end

