-- ==== Sys2Proof/Certificates/Slice0/Obligations.lean ====
section
/-!
DEFINITION. The statements for the provers: the queue and reset, the line events, the Memory Path, the ends of
accesses, the records, the directives, and the invariants that every step keeps.
-/
open Sys2Proof Sys2Proof.Machine

/-! ## The queue and reset -/

/-- A step takes the command at the front of the queue and carries it out on the rest; on an empty queue the
block idles (log 5). -/
def Obligations.StepRunsTheFrontCommand : Prop :=
  (∀ (s : State) (c : Instr) (rest : List Instr), s.pending = c :: rest →
    step s = exec c (s.withPending rest)) ∧
  ∀ s : State, s.pending = [] → step s = .next s

/-- Whatever its operands, a command is carried out or, when they are no command of the spec, refused as
ill-formed (log 11); no command faults. -/
def Obligations.EveryWellFormedCommandAnswersNext : Prop :=
  ∀ (i : Instr) (s : State),
    (i.wf = true → ∃ t, exec i s = .next t ∧ (t.pending = s.pending)) ∧
    (i.wf = false → exec i s = .refused .illFormed)

/-- The state right after a power-on reset, every value the spec gives: the Field Timer; the Memory Path and the
engine; every block of every lane; the assemblers, the Command Unit and the Report Unit (R15, R16, R18, R25, R26, R30,
R49, R50, R72, R85, R100, R103, R104, R139, R155, R164, R165, R175). The last served and the boot straps follow the
straps (log 1); the response latches (log 3), the field-repeat mode (log 2), the fetch point (log 18) and NEXT's twin
mark (log 14) are the model's own values and stand here as they are. -/
def Obligations.ResetValues : Prop :=
  let r := State.reset
  let low : Guard := { taken := false, run := 0 }
  let port := fun (u : PortUnit) =>
    u = { state := .idle, tally := { count := 0, first := 0, lane := .none }, response := u.response }
  let packet : Packet :=
    { generation := 0, target := 0, repeatFlag := false, twinFlag := false, cells := [], laneState := .off,
      column := 0, holdDepth := 0, emissionDepth := 0, l := 0, d := 0, follow := .none, cursor := 0,
      floorSlot := none, healthA := none, healthB := none, check := checkWords (List.replicate 15 0), budget := 0 }
  r.timer = { timing := none, f := 0, field := none, refState := .locked, absenceRunning := false,
              lineTimerRunning := false, irregular := 0, va := ⟨low, low, low, low⟩, ovr := low } ∧
  port r.path.h ∧ port r.path.v ∧ r.path.portM = none ∧ r.path.windows = List.replicate 16 none ∧
  r.path.memLimit = 255 ∧ r.engine = { requests := [], deferred := [] } ∧
  (∀ l, let x := r.lanes.get l
    (∀ k, x.pens.slots.get k =
      { pen := 0, role := .none, fault := 0, base := none, lastHeard := 0, silent := false, keepRun := 0,
        lastAdmitted := none }) ∧
    x.pens.floor = .vacant ∧ x.pens.standby = [] ∧ x.pens.q = 0 ∧ x.pens.takeWindow = 0 ∧
    x.tracker =
      { onsets := [], l := 0, hardAlign := false, startPending := false, lastArrival := none, d := 0, lmax := 0,
        s := 0, g := 0, initial := 0 } ∧
    x.hold =
      { state := .off, queue := [], tagCounter := 0, tallyEarly := 0, tallyDiscard := 0,
        counters := ⟨0, 0, 0, 0, 0, 0, 0, 0, 0, 0, 0, 0, 0, 0, 0, 0⟩ } ∧
    x.recent = { a := [], b := [] } ∧
    x.follower =
      { state := .none, cue := none, buffer := [], fetchPoint := x.follower.fetchPoint, cursor := 0,
        fetch := none, seek := none, missRun := 0, skipCount := 0, starvedCount := 0 } ∧
    x.composer =
      { emission := [], rows := { bottom := [], above := [], spans := [], openSep := false }, eraseDebt := 0,
        pendingClear := true, active := packet, next := packet, activeTwin := true,
        nextTwin := x.composer.nextTwin, opened := true, pairOpened := true, missed := false, composed := false,
        unopened := 0, generation := 0, latch := none, c := 0, r := 0, w := 0, corrMarker := (0, 0),
        spkMarker := (0, 0) } ∧
    x.link = .none ∧ x.stale = 0) ∧
  (∀ a, r.asm.get a = { stage := .empty, handoff := none, abandoned := 0, stray := 0 }) ∧
  r.asm.commandLost = 0 ∧
  r.unit.partState = .setup ∧ r.unit.resetCause = .power ∧ r.unit.setupCopy = List.replicate 128 0 ∧
  r.unit.softOverride = false ∧
  r.report = { staging := [], produce := 0, consume := 0, dropped := 0, lastDropped := 0, ringSize := none,
               phase := .idle } ∧
  r.attn = false

/-- R32: POWER_ON_RESET and RESET_PIN leave in every state the part of a reset with the straps they sample and
their own reset cause; the waiting commands stay. -/
def Obligations.ResetCommandsResetThePart : Prop :=
  ∀ (s : State) (straps : Straps), ∃ t u,
    exec (.powerOnReset straps) s = .next t ∧ exec (.resetPin straps) s = .next u ∧
    t.unit.resetCause = .power ∧ u.unit.resetCause = .pin ∧
    ∀ x, x = t ∨ x = u →
      x.pending = s.pending ∧ x.timer = State.reset.timer ∧ x.engine = State.reset.engine ∧
      x.asm = State.reset.asm ∧ x.lanes = State.reset.lanes ∧ x.report = State.reset.report ∧
      x.path = { State.reset.path with lastServed := if straps.tie then .portH else .engine } ∧
      x.unit = { State.reset.unit with
        resetCause := x.unit.resetCause, boot1 := straps.boot1, boot0 := straps.boot0 }

/-- R28: the last served after a reset is set from the TIE strap, decides the first contest of Port H with the
engine, and is kept by START and STOP. -/
def Obligations.LastServedFromTie : Prop :=
  (∀ cause straps cs n, (State.afterReset cause straps cs n).path.lastServed =
    if straps.tie then .portH else .engine) ∧
  (∀ s : State, (doStart s).path.lastServed = s.path.lastServed) ∧
  (∀ s : State, (stopTakesEffect s).path.lastServed = s.path.lastServed ∧
    (finishStopping s).path.lastServed = s.path.lastServed) ∧
  ∀ (s : State) (x : Access) (q : Request), s.path.portM = none → s.path.v.waiting? = none →
    s.path.h.waiting? = some x → s.frontEntry = some q → s.urgent q = false →
    ∃ m, (arbitrate s).path.portM = some m ∧
      m.owner = if s.path.lastServed = .portH then .engine q.requester else .port .h

/-! ## Line events -/

/-- R1: a timer that is not loaded takes no account of any line event. -/
def Obligations.UnloadedTimerIgnoresLines : Prop :=
  ∀ (s : State) (fo : Bool) (v : Levels), s.timer.timing = none →
    exec (.realFp fo v) s = .next s ∧ exec (.realLp v) s = .next s ∧
    exec (.synthesisedLine v) s = .next s ∧ exec (.lpAbsence v) s = .next s

/-- R2, R4, R11, R13: a real FP starts a field: F advances, N is 1, the parity is FO's, the origin REAL; the
reference state leaves FREEWHEEL; an irregular start is counted; each guard filter takes one sample. -/
def Obligations.RealFpStartsField : Prop :=
  ∀ (s : State) (fo : Bool) (v : Levels) (t : Timing), s.timer.timing = some t → s.NoneWaits →
    ∃ u, exec (.realFp fo v) s = .next u ∧
      u.timer.f = s.timer.f + 1 ∧
      u.timer.field = some { n := 1, parity := if fo then .odd else .even, origin := .real,
                             composeRaised := false } ∧
      u.timer.refState = (if s.timer.refState = .lineLost then .lineLost else .locked) ∧
      u.timer.irregular = s.timer.irregular +
        (match s.timer.field with
         | none => 0
         | some c =>
           if c.n ≠ t.expected c.parity ∨ c.parity = (if fo then .odd else .even) then 1 else 0) ∧
      u.timer.absenceRunning = s.timer.absenceRunning ∧
      Sampled t v s.timer u.timer ∧ LineFrame s u

/-- R5, R6, R7, R10: a real LP advances the line count or starts a synthesised field, ends a line loss and
restarts the LP absence measure. -/
def Obligations.RealLpAdvancesLine : Prop :=
  ∀ (s : State) (v : Levels) (t : Timing), s.timer.timing = some t → s.NoneWaits →
    ∃ u, exec (.realLp v) s = .next u ∧
      FieldAfterLine t s.timer u.timer ∧
      u.timer.refState = (if u.timer.f = s.timer.f ∧ s.timer.refState = .locked then .locked else .freewheel) ∧
      u.timer.absenceRunning = true ∧ u.timer.lineTimerRunning = false ∧
      u.timer.irregular = s.timer.irregular ∧
      Sampled t v s.timer u.timer ∧ LineFrame s u

/-- R9, R5, R6: in LINE-LOST a synthesised line advances the line count or starts a synthesised field, and the
reference state stays. LP absence changes the reference state to LINE-LOST, ends the measure, and its first
synthesised line is taken in the same event. -/
def Obligations.LostLineIsSynthesised : Prop :=
  (∀ (s : State) (v : Levels) (t : Timing), s.timer.timing = some t → s.NoneWaits →
    s.timer.refState = .lineLost → s.timer.lineTimerRunning = true →
    ∃ u, exec (.synthesisedLine v) s = .next u ∧
      FieldAfterLine t s.timer u.timer ∧ u.timer.refState = .lineLost ∧
      u.timer.lineTimerRunning = true ∧ u.timer.absenceRunning = s.timer.absenceRunning ∧
      u.timer.irregular = s.timer.irregular ∧
      Sampled t v s.timer u.timer ∧ LineFrame s u) ∧
  ∀ (s : State) (v : Levels) (t : Timing), s.timer.timing = some t → s.NoneWaits →
    s.timer.refState ≠ .lineLost → s.timer.absenceRunning = true →
    ∃ u, exec (.lpAbsence v) s = .next u ∧
      FieldAfterLine t s.timer u.timer ∧ u.timer.refState = .lineLost ∧
      u.timer.lineTimerRunning = true ∧ u.timer.absenceRunning = false ∧
      u.timer.irregular = s.timer.irregular ∧
      Sampled t v s.timer u.timer ∧ LineFrame s u

/-- R148: at the FIELD-START of a real FP, a lane that composes and whose NEXT is composed swaps: NEXT becomes
ACTIVE, its opened flag and missed mark and the composed mark are clear, and the read latch keeps its copy. -/
def Obligations.FieldStartSwapsPackets : Prop :=
  ∀ (s : State) (fo : Bool) (v : Levels) (t : Timing) (l : LaneId),
    s.timer.timing = some t → s.NoneWaits → s.composing l = true →
    (s.lanes.get l).composer.composed = true →
    ∃ u, exec (.realFp fo v) s = .next u ∧
      (u.lanes.get l).composer.active = (s.lanes.get l).composer.next ∧
      (u.lanes.get l).composer.opened = false ∧ (u.lanes.get l).composer.missed = false ∧
      (u.lanes.get l).composer.composed = false ∧
      (u.lanes.get l).composer.latch = (s.lanes.get l).composer.latch

/-- R7, R147: the LP that brings the line count to K with the compose-raised mark clear has every composing
lane composed for the next field. -/
def Obligations.ComposeAtLineK : Prop :=
  ∀ (s : State) (v : Levels) (t : Timing) (c : CurrentField) (l : LaneId),
    s.timer.timing = some t → s.NoneWaits → s.timer.field = some c →
    c.n + 1 < t.threshold c → c.n + 1 = t.k → c.composeRaised = false → s.composing l = true →
    ∃ u, exec (.realLp v) s = .next u ∧ (u.lanes.get l).composer.composed = true ∧
      ((s.lanes.get l).composer.composed = false →
        (u.lanes.get l).composer.next.target = s.timer.f + 1 ∧
        (u.lanes.get l).composer.generation = (s.lanes.get l).composer.generation + 1) ∧
      ((s.lanes.get l).composer.composed = true →
        (u.lanes.get l).composer.next = (s.lanes.get l).composer.next)

/-- R94: at a FIELD-START of a lane in RUN the due heads leave the hold queue in order for the emission queue
until one is not due or the queue is full, each counted from held to queued; in any other state nothing is
released. -/
def Obligations.ReleaseMovesDueHeads : Prop :=
  ∀ (c : LaneCtx) (w : Work),
    (w.lane.hold.state ≠ .run → release c w = w) ∧
    (w.lane.hold.state = .run → w.lane.composer.emission.length ≤ 48 →
      ∃ moved,
        w.lane.hold.queue = moved ++ (release c w).lane.hold.queue ∧
        (release c w).lane.composer.emission = w.lane.composer.emission ++ moved.map tokenEntry ∧
        (∀ t ∈ moved, notLater t.due c.now = true) ∧
        (release c w).lane.composer.emission.length ≤ 48 ∧
        ((release c w).lane.composer.emission.length = 48 ∨
          ∀ t ∈ (release c w).lane.hold.queue.head?, notLater t.due c.now = false) ∧
        (release c w).lane.hold.counters =
          { w.lane.hold.counters with
            held := w.lane.hold.counters.held - BitVec.ofNat 32 moved.length,
            queued := w.lane.hold.counters.queued + BitVec.ofNat 32 moved.length } ∧
        (release c w).lane.pens = w.lane.pens ∧ (release c w).lane.tracker = w.lane.tracker ∧
        (release c w).lane.follower = w.lane.follower ∧ (release c w).out = w.out)

/-! ## The Memory Path -/

/-- R27, R29: a FREE Port M is granted to Port V first, then to an urgent front entry, then to Port H and the
engine by turn; a BUSY one to nobody. -/
def Obligations.ArbiterOrder : Prop :=
  ∀ s : State,
    (∀ m, s.path.portM = some m → arbitrate s = s) ∧
    (s.path.portM = none →
      (∀ x, s.path.v.waiting? = some x →
        ∃ m, (arbitrate s).path.portM = some m ∧ m.owner = .port .v ∧ m.addr = x.addr) ∧
      (s.path.v.waiting? = none → ∀ q, s.frontEntry = some q → s.urgent q = true →
        (arbitrate s).path.portM = some (engineAccess q) ∧
        (arbitrate s).engine.requests = s.engine.requests.erase q ∧
        (arbitrate s).path.lastServed = s.path.lastServed) ∧
      (s.path.v.waiting? = none → s.path.h.waiting? = none → ∀ q, s.frontEntry = some q →
        (arbitrate s).path.portM = some (engineAccess q)) ∧
      (s.path.v.waiting? = none → s.frontEntry = none → ∀ x, s.path.h.waiting? = some x →
        ∃ m, (arbitrate s).path.portM = some m ∧ m.owner = .port .h ∧ m.addr = x.addr) ∧
      (s.path.v.waiting? = none → s.path.h.waiting? = none → s.engine.requests = [] → arbitrate s = s))

/-- R16, R17, R18, R27: an access that needs memory, received at an IDLE port while Port M is BUSY, waits, and nothing
else changes; one outside all windows that finds Port M FREE and nobody else waiting is granted at once and passes
unchanged. -/
def Obligations.UpstreamAccessWaitsOrIsGranted : Prop :=
  (∀ (s : State) (p : Port) (x : Access) (m : MAccess), x.wf = true → (s.portUnit p).state = .idle →
    s.path.portM = some m → s.unit.partState ≠ .stopping → accessNeedsMemory p x s = true →
    exec (.upstreamAccess p x) s = .next (s.setPort p { s.portUnit p with state := .waiting x })) ∧
  ∀ (s : State) (p : Port) (x : Access), x.wf = true → (s.portUnit p).state = .idle →
    s.path.portM = none → s.NoneWaits → s.unit.partState ≠ .stopping →
    (∀ i, i < x.xfer.count → s.regionOf (wordAddr x.addr i) = .outside) →
    ∃ t, exec (.upstreamAccess p x) s = .next t ∧
      t.path.portM = some
        { owner := .port p, addr := x.addr,
          isWrite := (match x.xfer with | .write _ => true | .read _ => false),
          words := (match x.xfer with | .write data => data.map .store | .read n => List.replicate n .load),
          orphan := false } ∧
      (t.portUnit p).state = .inFlight ∧ t.engine = s.engine ∧ t.path.windows = s.path.windows ∧
      PathOnly s t

/-- R22, R24, R25, Table 2-2: a Port V write whose words all fall in windows is refused whole, answered
internally, and counted in Port V's tally with the first refused address. -/
def Obligations.PortVWriteIntoWindowsIsRefused : Prop :=
  ∀ (s : State) (x : Access) (data : List Word), x.wf = true → x.xfer = .write data →
    s.path.v.state = .idle → s.NoneWaits → s.unit.partState = .running →
    (∀ i, i < data.length → ∃ w, s.regionOf (wordAddr x.addr i) = .window w) →
    ∃ t, exec (.upstreamAccess .v x) s = .next t ∧
      t.path.v.state = .idle ∧ t.path.v.response = some { code := .refused, data := [] } ∧
      t.path.v.tally.count = s.path.v.tally.count + data.length ∧
      t.path.v.tally.first = (if s.path.v.tally.count = 0 then x.addr else s.path.v.tally.first) ∧
      t.path.portM = s.path.portM ∧ t.path.h = s.path.h ∧ t.engine = s.engine ∧ PathOnly s t

/-- R22, R149: a Port V burst from word 0 of a lane's AIR window returns the words of ACTIVE, loads the read
latch with it, marks it opened and sets the unopened count to 0; an opening of a missed ACTIVE is counted as a
late read. Port M is not used. -/
def Obligations.AirBurstReturnsActive : Prop :=
  ∀ (s : State) (l : LaneId) (n : Nat) (w : Window), 1 ≤ n → n ≤ 16 →
    s.path.v.state = .idle → s.NoneWaits → s.unit.partState = .running →
    s.windowOf .air (some l) = some w → w.length = 64 → w.base.toNat + 64 ≤ 2 ^ 28 →
    (∀ a : Addr, w.covers a = true → s.regionOf a = .window w) →
    ∃ t, exec (.airWord0Read l n) s = .next t ∧
      t.path.v.state = .idle ∧
      t.path.v.response = some
        { code := .ok, data := (List.range n).map (s.lanes.get l).composer.active.word } ∧
      t.lanes = s.lanes.set l
        { s.lanes.get l with
          composer := { (s.lanes.get l).composer with
            latch := some (s.lanes.get l).composer.active, opened := true,
            pairOpened := s.unit.fieldRepeat || (s.lanes.get l).composer.pairOpened, unopened := 0 },
          hold := { (s.lanes.get l).hold with counters := { (s.lanes.get l).hold.counters with
            lateReads := (s.lanes.get l).hold.counters.lateReads +
              if (s.lanes.get l).composer.missed then 1 else 0 } } } ∧
      ((s.lanes.get l).composer.missed = false → (s.lanes.get l).composer.unopened ≠ 3 →
        t.report = s.report ∧ t.path.portM = s.path.portM) ∧
      t.timer = s.timer ∧ t.asm = s.asm ∧ t.unit = s.unit ∧ t.pending = s.pending

/-- R23, R174: a Port H write of report header word 1 gives the consume index when it is below the ring size,
and is ignored otherwise; the write goes on to memory. -/
def Obligations.ConsumeIndexIsTaken : Prop :=
  ∀ (s : State) (index : Word) (w : Window), s.path.h.state = .idle → s.path.portM = none →
    s.NoneWaits → s.unit.partState = .running → s.windowOf .report none = some w →
    w.base.toNat + 8 ≤ 2 ^ 28 → s.regionOf (w.base + 4) = .window w →
    ∃ t, exec (.consumeIndexWrite index) s = .next t ∧
      t.report = { s.report with
        consume := if index.toNat < s.report.size then index.toNat else s.report.consume } ∧
      t.path.portM = some { owner := .port .h, addr := w.base + 4, isWrite := true,
                            words := [.store index], orphan := false } ∧
      t.path.h.state = .inFlight ∧ t.lanes = s.lanes ∧ t.asm = s.asm ∧ t.timer = s.timer ∧
      t.unit = s.unit ∧ t.pending = s.pending

/-- R166, R167, R168: a START whose setup copy passes every test loads the window table, the timing values and
the memory response limit, makes the part RUNNING with an empty Report Unit, and enters the result word and then the
first header write, an order the spec leaves to the arbiter and the model settles (log 33); one whose copy fails
enters the result word and changes no more. -/
def Obligations.StartLoadsOrRefuses : Prop :=
  ∀ (s : State) (rest : List Word), rest.length ≤ 15 → s.unit.partState = .setup → s.SetupOk →
    s.path.h.state = .idle → s.path.portM = none → s.NoneWaits →
    let copy := (1 :: rest) ++ s.unit.setupCopy.drop (rest.length + 1)
    ∃ t, exec (.start rest) s = .next t ∧ t.unit.setupCopy = copy ∧
      t.path.portM = some { owner := .port .h, addr := BitVec.ofNat 28 s.bootBase, isWrite := true,
                            words := (1 :: rest).map .store, orphan := false } ∧
      t.lanes = s.lanes ∧ t.asm = s.asm ∧ t.pending = s.pending ∧ t.path.lastServed = .portH ∧
      (∀ f, setupFailure s.bootBase copy = some f →
        t.unit.partState = .setup ∧ t.path.windows = s.path.windows ∧ t.timer = s.timer ∧
        t.report = s.report ∧
        t.engine.requests = [{ requester := .setupResult, addr := BitVec.ofNat 28 (s.bootBase + 4),
                               xfer := .write [resultWord (some f) s.unit.resetCause] }]) ∧
      (setupFailure s.bootBase copy = none →
        t.unit.partState = .running ∧ t.unit.fieldRepeat = readFieldRepeat copy ∧
        t.path.windows = readWindows copy ∧ t.path.memLimit = readMemLimit copy ∧
        t.timer.timing = some (readTiming copy) ∧ t.timer.f = s.timer.f ∧
        (s.timer.timing = none → t.timer.refState = .locked ∧ t.timer.field = none) ∧
        t.report.staging = [] ∧ t.report.produce = 0 ∧ t.report.consume = 0 ∧ t.report.dropped = 0 ∧
        t.report.ringSize = some (readRingSize copy) ∧ t.attn = false ∧
        (t.engine.requests.map (·.requester)) = [.setupResult, .report] ∧
        { requester := .setupResult, addr := BitVec.ofNat 28 (s.bootBase + 4),
          xfer := .write [resultWord none s.unit.resetCause] } ∈ t.engine.requests)

/-- R18, R167: the windows that an accepted setup table loads do not overlap, so that a word falls in at most
one. -/
def Obligations.LoadedWindowsAreDisjoint : Prop :=
  ∀ (boot : Nat) (copy : List Word), setupFailure boot copy = none →
    ∀ (i j : Nat) (v w : Window), (readWindows copy)[i]? = some (some v) →
      (readWindows copy)[j]? = some (some w) → i ≠ j →
      ∀ a : Addr, ¬ (v.covers a = true ∧ w.covers a = true)

/-! ## Ends of accesses -/

/-- R24, R26: memory's answer to an upstream port's access frees Port M and gives the port its response. When
nobody waits, nothing else changes. -/
def Obligations.UpstreamAccessEnds : Prop :=
  ∀ (s : State) (p : Port) (m : MAccess) (a : MemAnswer), s.path.portM = some m → m.owner = .port p →
    let y : Response :=
      if m.isWrite then { code := if m.words.contains .masked then .refused else .ok, data := [] }
      else match a with
        | .done data => { code := .ok, data := readData m.words (data.map some) }
        | .uncorrectable data => { code := .dataError, data := readData m.words data }
    ∃ t, exec (.upstreamAccessEnd a) s = .next t ∧
      (t.portUnit p).state = .idle ∧ (t.portUnit p).response = some y ∧
      (s.PortsQuiet → s.engine.requests = [] → s.unit.partState ≠ .stopping →
        t = (s.setPortM none).setPort p { s.portUnit p with state := .idle, response := some y })

/-- R26, R32: the expiry of the response timer ends an upstream port's access NO-RESPONSE and frees Port M; with Port
M FREE no timer runs and nothing changes; an answer to an access that has ended is discarded. -/
def Obligations.ResponseTimerAndLateAnswer : Prop :=
  ((∀ s : State, s.path.portM = none → exec .responseTimerExpiry s = .next s) ∧
  ∀ (s : State) (p : Port) (m : MAccess), s.path.portM = some m → m.owner = .port p →
    ∃ t y, exec .responseTimerExpiry s = .next t ∧
      (t.portUnit p).state = .idle ∧ (t.portUnit p).response = some y ∧ y.code = .noResponse ∧
      (s.PortsQuiet → s.engine.requests = [] → s.unit.partState ≠ .stopping →
        t = (s.setPortM none).setPort p { s.portUnit p with state := .idle, response := some y })) ∧
  ∀ (s : State) (a : MemAnswer), exec (.lateMemoryAnswer a) s = .next s

/-- R40, R39: a disposition write-back that ends OK empties the handoff stage. Where no complete record waits, the
assembler changes in nothing else, and the lanes, the Report Unit and the Command Unit are unchanged. Where one
waits, it enters the handoff stage and is processed by its block: the disposition, the STOP mark, the lanes, the
Report Unit and the Command Unit are those its processing gives, and its write-back is entered. -/
def Obligations.WritebackEmptiesHandoff : Prop :=
  ∀ (s : State) (a : AsmId) (m : MAccess) (h : Handoff), EngineEnds (.writeBack a) m s →
    (s.asm.get a).handoff = some h → h.isStop = false →
    ∃ t, exec .dispositionWritebackEnd s = .next t ∧ t.timer = s.timer ∧ t.pending = s.pending ∧
      ((∀ r, (s.asm.get a).stage ≠ .complete r) →
        t.asm = s.asm.set a { s.asm.get a with handoff := none } ∧ t.lanes = s.lanes ∧
        t.report = s.report ∧ t.unit = s.unit) ∧
      ∀ r, (s.asm.get a).stage = .complete r →
        let p := processByBlock a r
          ((s.setPortM none).setAsm a { s.asm.get a with stage := .empty, handoff := none })
        t.asm = s.asm.set a
          { s.asm.get a with stage := .empty, handoff := some { record := r, disp := p.disp, isStop := p.isStop } } ∧
        t.lanes = p.state.lanes ∧ t.report = p.state.report ∧ t.unit = p.state.unit ∧
        ((∀ q ∈ s.engine.requests, q.requester ≠ .writeBack a) →
          t.Entered { requester := .writeBack a, addr := dispositionAddr (s.ringBase a) r.slot,
                      xfer := .write [p.disp.word] })

/-- R48, R169: STOP takes effect when its write-back ends: the part is STOPPING, the lanes and the assemblers
are as after a power-on reset, the override flag is OFF, and the STOPPED report alone is staged where the ring
has a free record. -/
def Obligations.StopTakesEffectAtItsWriteback : Prop :=
  ∀ (s : State) (m : MAccess) (h : Handoff), EngineEnds (.writeBack .command) m s →
    s.asm.command.handoff = some h → h.isStop = true → 1 ≤ s.report.freeRecords →
    ∃ t r, exec .dispositionWritebackEnd s = .next t ∧
      t.unit.partState = .stopping ∧ t.unit.softOverride = false ∧
      (∀ l, t.lanes.get l = .reset) ∧ t.asm = .reset ∧ t.timer = s.timer ∧
      t.path.windows = s.path.windows ∧
      t.report.staging = [r] ∧ r.cause = .stopped ∧ r.lane = .none ∧ r.field = s.timer.f

/-- R125, R126: the end of a burst of a script fetch that is not overtaken places its records in the buffer; a
malformed record puts the follower in FAULT with an empty buffer. Nothing else of the lane changes. -/
def Obligations.ScriptBurstIsPlaced : Prop :=
  ∀ (s : State) (l : LaneId) (m : MAccess) (x : Fetch) (data : List Word),
    EngineEnds (.fetch l) m s → (s.lanes.get l).follower.fetch = some x → x.overtaken = false →
    ∃ t, exec (.scriptFetchBurstEnd (.done data)) s = .next t ∧
      t.timer = s.timer ∧ t.asm = s.asm ∧ t.unit = s.unit ∧ t.pending = s.pending ∧
      t.lanes = s.lanes.set l { s.lanes.get l with follower := (t.lanes.get l).follower } ∧
      (∀ rs : List ScriptRec, burstRecords x.records data = rs.map some →
        (t.lanes.get l).follower.buffer = (s.lanes.get l).follower.buffer ++ rs ∧
        (t.lanes.get l).follower.fetchPoint = (s.lanes.get l).follower.fetchPoint + rs.length ∧
        (t.lanes.get l).follower.state = (s.lanes.get l).follower.state ∧
        (t.lanes.get l).follower.cursor = (s.lanes.get l).follower.cursor) ∧
      (none ∈ burstRecords x.records data →
        (t.lanes.get l).follower.state = .fault ∧ (t.lanes.get l).follower.buffer = [] ∧
        (t.lanes.get l).follower.fetch = none)

/-- R168 step 5, R173, R31: the ends of the report writer's accesses, each with the access it enters, its address
and its data. After the first header write of START, OK or NO-RESPONSE, the write of 0 to header word 0; after the
second, a staged report is begun. After a record that is not the last, the next record; after the last, the produce
word or, when the dropped count differs from the value last written, header word 2; after header word 2, the produce
word; after it, the report leaves the queue, the produce index advances and the next report is begun. An access that
ends NO-RESPONSE drops its report, counted, and the next is begun; a header write of START that does is counted as
one. That the value last written changes at the OK end of the write of header word 2, and that the room test of a
report is made when the writer turns to it, is log 17. Lanes, assemblers and timer are unchanged. -/
def Obligations.ReportWriterAdvances : Prop :=
  ∀ (s : State) (m : MAccess), EngineEnds .report m s →
    (∀ q ∈ s.engine.requests, q.requester ≠ .report) →
    let r0 := s.report
    let frame := fun t : State =>
      t.lanes = s.lanes ∧ t.asm = s.asm ∧ t.timer = s.timer ∧ t.unit = s.unit ∧ t.pending = s.pending ∧
      t.report.consume = r0.consume
    let begins := fun (t : State) (r : ReportUnit) =>
      t.report = r.begun ∧ ∀ y ys, r.begun.staging = y :: ys → t.Entered (s.recordWrite r.produce 0 y)
    (∃ t, exec .reportAccessEnd s = .next t ∧ frame t ∧
      (r0.phase = .startDropped →
        t.report = { r0 with phase := .startProduce } ∧ t.Entered (s.headerWrite 0 0)) ∧
      (r0.phase = .startProduce → begins t r0) ∧
      ∀ (r : Report) (rs : List Report), r0.staging = r :: rs →
        let produce := (r0.produce + r.records) % r0.size
        (∀ i, r0.phase = .record i → i + 1 < r.records →
          t.report = { r0 with phase := .record (i + 1) } ∧ t.Entered (s.recordWrite r0.produce (i + 1) r)) ∧
        (∀ i, r0.phase = .record i → ¬ i + 1 < r.records → r0.dropped = r0.lastDropped →
          t.report = { r0 with phase := .produce } ∧ t.Entered (s.headerWrite 0 (BitVec.ofNat 32 produce))) ∧
        (∀ i, r0.phase = .record i → ¬ i + 1 < r.records → r0.dropped ≠ r0.lastDropped →
          t.report = { r0 with phase := .dropped r0.dropped } ∧ t.Entered (s.headerWrite 2 r0.dropped)) ∧
        (∀ n, r0.phase = .dropped n →
          t.report = { r0 with phase := .produce, lastDropped := n } ∧
          t.Entered (s.headerWrite 0 (BitVec.ofNat 32 produce))) ∧
        (r0.phase = .produce → begins t { r0 with staging := rs, produce := produce })) ∧
    ∃ t, exec .responseTimerExpiry s = .next t ∧ frame t ∧
      (r0.phase = .startDropped →
        t.report = { r0 with phase := .startProduce, dropped := r0.dropped + 1 } ∧ t.Entered (s.headerWrite 0 0)) ∧
      (r0.phase = .startProduce → begins t { r0 with dropped := r0.dropped + 1 }) ∧
      ∀ (r : Report) (rs : List Report), r0.staging = r :: rs →
        ((∃ i, r0.phase = .record i) ∨ (∃ n, r0.phase = .dropped n) ∨ r0.phase = .produce →
          begins t { r0 with staging := rs, dropped := r0.dropped + 1 })

/-- R31, R168: the end of the setup result write changes nothing but Port M and the engine's list. -/
def Obligations.SetupResultEndsQuietly : Prop :=
  ∀ (s : State) (m : MAccess), s.path.portM = some m → m.owner = .engine .setupResult → s.PortsQuiet →
    s.unit.partState ≠ .stopping →
    ∃ t, exec .setupResultWriteEnd s = .next t ∧ PathOnly s t ∧ t.path.windows = s.path.windows ∧
      (s.engine.requests = [] → s.engine.deferred = [] → t = s.setPortM none)

/-! ## Records -/

/-- R27, R34 to R39: each of the sixteen record commands, when its burst finds the part ready, is granted Port M,
collected with its arrival stamped, processed, and left in the handoff stage with its write-back entered. -/
def Obligations.RecordsAreProcessedInOneBurst : Prop :=
  ∀ (i : Instr) (a : AsmId) (slot : Nat) (ws : List Word) (w : Window) (s : State),
    recordOf i = some (a, slot, ws) → i.wf = true → Ready a slot w s →
    ∃ t d b, exec i s = .next t ∧ Recorded a slot w ws d b s t

/-- R43, R46, R170, Table 11-3: a directive whose check value is wrong receives BAD-CHECK; one for a lane that names
no lane with an INGEST window is refused with reason 1; a LANE-SET with D of 0, or with a lag limit above its D, is
refused with reason 2, whether it enables or disables. None of them changes anything. -/
def Obligations.RefusedDirectivesChangeNothing : Prop :=
  (∀ (i : Instr) (slot : Nat) (ws : List Word) (w : Window) (s : State),
    recordOf i = some (.command, slot, ws) → i.wf = true → Ready .command slot w s → ¬ rightCheck ws →
    ∃ t, exec i s = .next t ∧ Untouched s t ∧
      Recorded .command slot w ws { outcome := .badCheck, detail := 0, gap := false, health := none } false s t) ∧
  (∀ (i : Instr) (slot : Nat) (ws : List Word) (w : Window) (s : State),
    recordOf i = some (.command, slot, ws) → i.wf = true → Ready .command slot w s → rightCheck ws →
    (∀ on check, i ≠ .override slot on check) → (∀ check, i ≠ .stop slot check) →
    (∀ l, field (wordAt ws 1) 0 8 = laneNum l → s.windowOf .ingest (some l) = none) →
    ∃ t, exec i s = .next t ∧ Untouched s t ∧ Recorded .command slot w ws (directiveRefused 1) false s t) ∧
  ∀ (enable : Bool) (slot : Nat) (p : LaneSetFields) (w : Window) (l : LaneId) (s : State),
    Directed slot w p.lane l s → p.check = recordCheck (laneSetWords enable p) →
    (p.d = 0 ∨ p.d.toNat < p.lmax.toNat) →
    ∃ t, exec (if enable then .laneSetEnable slot p else .laneSetDisable slot p) s = .next t ∧
      Untouched s t ∧ Recorded .command slot w (laneSetWords enable p) (directiveRefused 2) false s t

/-- R45: an ingest record of a lane that is OFF receives LANE-OFF, one with a right check and a good form whose
pen is in neither slot STRANGER; neither changes anything. -/
def Obligations.LaneOffAndStrangerChangeNothing : Prop :=
  ∀ (i : Instr) (l : LaneId) (slot : Nat) (ws : List Word) (w : Window) (s : State),
    recordOf i = some (.lane l, slot, ws) → i.wf = true → Ready (.lane l) slot w s →
    ∃ t, exec i s = .next t ∧
      ((s.lanes.get l).hold.state = .off → Untouched s t ∧
        Recorded (.lane l) slot w ws { outcome := .laneOff, detail := 0, gap := false, health := none } false s t) ∧
      (∀ (k : IngestKind) (r : IngestFields), ws = ingestWords k r → (s.lanes.get l).hold.state ≠ .off →
        rightCheck ws → GoodForm k r → (s.lanes.get l).pens.slotOf r.pen = none → Untouched s t ∧
        Recorded (.lane l) slot w ws { outcome := .stranger, detail := 0, gap := false, health := none } false s t)

/-- R43, R45, R52, R54: an ingest record of a slot's pen with a wrong check value receives BAD-CHECK and adds 5
to the slot's fault count, up to 200; a BARRED slot keeps its count. Where the slot's health stays, nothing else
changes but its keepalive run, which becomes 0. -/
def Obligations.BadCheckIsCharged : Prop :=
  ∀ (i : Instr) (l : LaneId) (slot : Nat) (kind : IngestKind) (r : IngestFields) (w : Window) (k : SlotId)
    (s : State),
    recordOf i = some (.lane l, slot, ingestWords kind r) → i.wf = true → Ready (.lane l) slot w s →
    ¬ rightCheck (ingestWords kind r) → (s.lanes.get l).hold.state ≠ .off →
    (s.lanes.get l).pens.slotOf r.pen = some k →
    let p := (s.lanes.get l).pens.slots.get k
    let n := if healthOf p.fault = .barred then p.fault else min 200 (p.fault + 5)
    healthOf n = healthOf p.fault →
    ∃ t, exec i s = .next t ∧ t.report = s.report ∧
      t.lanes = s.lanes.set l
        { s.lanes.get l with pens := (s.lanes.get l).pens.withSlot k { p with fault := n, keepRun := 0 } } ∧
      Recorded (.lane l) slot w (ingestWords kind r)
        { outcome := .badCheck, detail := 0, gap := false, health := some (healthOf n) } false s t

/-- R66, R76, R83, R90, R91, R93, R100: a TOKEN of the floor pen, in sequence, in a lane in RUN or SOFT-HELD that
follows no script and whose hold queue has room: it takes its tag, enters the hold queue as typed with the due
field F + D - L, is counted admitted and held, and enters the slot's recent list. -/
def Obligations.TokenIsAdmitted : Prop :=
  ∀ (l : LaneId) (slot : Nat) (r : IngestFields) (w : Window) (k : SlotId) (s : State),
    InOrder .token l slot w k r s →
    let x := s.lanes.get l
    let p := x.pens.slots.get k
    x.FloorOk → p.role = .floor → x.hold.state ≠ .hardHeld → x.hold.queue.length < 128 →
    x.follower.state ≠ .cued → x.follower.state ≠ .locked →
    ∃ t tag, exec (.token l slot r) s = .next t ∧
      let y := t.lanes.get l
      tag = (giveTag { lane := x, out := [] }).2 ∧
      y.hold = { x.hold with
        tagCounter := tag + 1,
        queue := x.hold.queue ++
          [{ tag := tag, due := s.timer.f + BitVec.ofNat 32 y.tracker.d - BitVec.ofNat 32 y.tracker.l,
             newline := r.newline, speaker := r.speaker, text := typedText r, script := none }],
        counters := { x.hold.counters with
          admitted := x.hold.counters.admitted + 1, held := x.hold.counters.held + 1,
          unmatchedOnsets := y.hold.counters.unmatchedOnsets } } ∧
      y.recent = x.recent.set k (pushRecent tag (x.recent.get k)) ∧
      y.tracker.lastArrival = some s.timer.f ∧ y.tracker.startPending = false ∧ y.tracker.d = x.tracker.d ∧
      y.pens = x.pens.withSlot k { p.afterGood s.timer.f r.seq with lastAdmitted := some s.timer.f } ∧
      y.composer = x.composer ∧ y.follower = x.follower ∧ y.link = x.link ∧ y.stale = x.stale ∧
      (∀ m, m ≠ l → t.lanes.get m = s.lanes.get m) ∧
      Recorded (.lane l) slot w (ingestWords .token r) (acceptedOf 1 (p.fault - 1)) false s t

/-- R90: the tag given is the first value from the tag counter on that is present nowhere in the lane, and the
counter goes past it. -/
def Obligations.TagGivenIsFree : Prop :=
  ∀ (w : Work), w.lane.presentTags.length < 65536 →
    let g := giveTag w
    g.2 ∉ w.lane.presentTags ∧ g.1.lane.hold.tagCounter = g.2 + 1 ∧
    (∀ n : Nat, n < (g.2 - w.lane.hold.tagCounter).toNat →
      w.lane.hold.tagCounter + BitVec.ofNat 16 n ∈ w.lane.presentTags) ∧
    g.1.lane = { w.lane with hold := { w.lane.hold with tagCounter := g.2 + 1 } } ∧ g.1.out = w.out

/-- R66, R67, R90: a TOKEN of a STANDBY pen, in sequence, while the floor is held enters the standby list at the tail
with its tag and arrival; of 32 entries the oldest leaves, counted. R45 test 7, R66, R87 (Table 6-1): a TOKEN in
sequence in a HARD-HELD lane is held out and counted. -/
def Obligations.TokenIsListedOrHeldOut : Prop :=
  (∀ (l : LaneId) (slot : Nat) (r : IngestFields) (w : Window) (k : SlotId) (s : State),
    InOrder .token l slot w k r s →
    let x := s.lanes.get l
    let p := x.pens.slots.get k
    p.role = .standby → p.calm → x.pens.floor ≠ .vacant → x.hold.state ≠ .hardHeld →
    let full : Bool := 32 ≤ x.pens.standby.length
    let kept := if full then x.pens.standby.tail else x.pens.standby
    ∃ t tag, exec (.token l slot r) s = .next t ∧ t.report = s.report ∧
      tag = (giveTag { lane := { x with pens := { x.pens with standby := kept } }, out := [] }).2 ∧
      t.lanes = s.lanes.set l
        { x with
          hold := { x.hold with
            tagCounter := tag + 1,
            counters := { x.hold.counters with
              standbyDiscarded := x.hold.counters.standbyDiscarded + if full then 1 else 0 } },
          pens := { x.pens.withSlot k (p.afterGood s.timer.f r.seq) with
            standby := kept ++
              [{ tag := tag, slot := k, arrival := s.timer.f, newline := r.newline, speaker := r.speaker,
                 text := typedText r }] } } ∧
      Recorded (.lane l) slot w (ingestWords .token r) (acceptedOf 2 (p.fault - 1)) false s t) ∧
  ∀ (l : LaneId) (slot : Nat) (r : IngestFields) (w : Window) (k : SlotId) (s : State),
    InOrder .token l slot w k r s →
    let x := s.lanes.get l
    let p := x.pens.slots.get k
    p.calm → x.hold.state = .hardHeld →
    ∃ t, exec (.token l slot r) s = .next t ∧ t.report = s.report ∧
      t.lanes = s.lanes.set l
        { x with
          hold := { x.hold with counters := { x.hold.counters with heldOut := x.hold.counters.heldOut + 1 } },
          pens := x.pens.withSlot k (p.afterGood s.timer.f r.seq) } ∧
      Recorded (.lane l) slot w (ingestWords .token r)
        { outcome := .heldOut, detail := 0, gap := false, health := some (healthOf (p.fault - 1)) } false s t

/-- R69: a CORRECT of count n from a STANDBY slot removes that slot's n newest standby entries, or all of them,
each counted; the other slot's entries, the queues and the screen are untouched. -/
def Obligations.StandbyCorrectRemovesNewest : Prop :=
  ∀ (l : LaneId) (slot : Nat) (r : IngestFields) (w : Window) (k : SlotId) (s : State),
    InOrder .correct l slot w k r s →
    let x := s.lanes.get l
    let p := x.pens.slots.get k
    p.role = .standby → p.calm →
    let own := fun e : StandbyEntry => e.slot == k
    let mine := x.pens.standby.filter own
    let removed := min r.argument.toNat mine.length
    ∃ t kept, exec (.correct l slot r) s = .next t ∧ t.report = s.report ∧
      kept.Sublist x.pens.standby ∧
      kept.filter (fun e => !own e) = x.pens.standby.filter (fun e => !own e) ∧
      kept.filter own = mine.take (mine.length - removed) ∧
      t.lanes = s.lanes.set l
        { x with
          hold := { x.hold with counters := { x.hold.counters with
            standbyDiscarded := x.hold.counters.standbyDiscarded + BitVec.ofNat 32 removed } },
          pens := { x.pens.withSlot k (p.afterGood s.timer.f r.seq) with standby := kept } } ∧
      Recorded (.lane l) slot w (ingestWords .correct r) (acceptedOf removed (p.fault - 1)) false s t

/-- R106, R107, R108: a CORRECT of count n from the floor slot whose n newest listed tokens all stand in the hold
queue alone retracts them: their entries leave the queue, the others keep their order, each moves from held to
retracted, and their tags leave the recent list. -/
def Obligations.CorrectRetractsFromHold : Prop :=
  ∀ (l : LaneId) (slot : Nat) (r : IngestFields) (w : Window) (k : SlotId) (s : State),
    InOrder .correct l slot w k r s →
    let x := s.lanes.get l
    let p := x.pens.slots.get k
    let n := r.argument.toNat
    let tags := (x.recent.get k).drop ((x.recent.get k).length - n)
    x.FloorOk → p.role = .floor → x.follower.state ≠ .locked →
    n ≤ (x.recent.get k).length → tags.Nodup → (x.hold.queue.map (·.tag)).Nodup →
    (∀ g ∈ tags, g ∈ x.hold.queue.map (·.tag) ∧
      (∀ e ∈ x.composer.emission, e.body.hasTag g = false) ∧
      (∀ q ∈ x.composer.rows.spans, q.copy.hasTag g = false)) →
    ∃ t, exec (.correct l slot r) s = .next t ∧
      t.lanes = s.lanes.set l
        { x with
          hold := { x.hold with
            queue := x.hold.queue.filter (fun e => !tags.contains e.tag),
            counters := { x.hold.counters with
              held := x.hold.counters.held - BitVec.ofNat 32 n,
              retracted := x.hold.counters.retracted + BitVec.ofNat 32 n } },
          pens := x.pens.withSlot k (p.afterGood s.timer.f r.seq),
          recent := x.recent.set k ((x.recent.get k).take ((x.recent.get k).length - n)) } ∧
      Recorded (.lane l) slot w (ingestWords .correct r) (acceptedOf n (p.fault - 1)) false s t

/-- R59: an OFFER in sequence from the floor pen makes the floor state HANDOVER with deadline F plus the take
window, mod 2^32; from a STANDBY pen it is refused with the floor state as its detail. Nothing else changes but
the slot's standing. -/
def Obligations.OfferMakesHandover : Prop :=
  ∀ (l : LaneId) (slot : Nat) (r : IngestFields) (w : Window) (k : SlotId) (s : State),
    InOrder .offer l slot w k r s →
    let x := s.lanes.get l
    let p := x.pens.slots.get k
    x.FloorOk →
    ∃ t, exec (.offer l slot r) s = .next t ∧ (p.calm → t.report = s.report) ∧
      (p.role = .floor →
        t.lanes = s.lanes.set l
          { x with pens := { x.pens.withSlot k (p.afterGood s.timer.f r.seq) with
              floor := .handover (s.timer.f + BitVec.ofNat 32 x.pens.takeWindow) } } ∧
        Recorded (.lane l) slot w (ingestWords .offer r) (acceptedOf 1 (p.fault - 1)) false s t) ∧
      (p.role = .standby → p.calm →
        t.lanes = s.lanes.set l { x with pens := x.pens.withSlot k (p.afterGood s.timer.f r.seq) } ∧
        Recorded (.lane l) slot w (ingestWords .offer r)
          { outcome := .refusedRole,
            detail := (match x.pens.floor with | .steady => 1 | .handover _ => 2 | .vacant => 3),
            gap := false, health := some (healthOf (p.fault - 1)) } false s t)

/-- R59, as a rule of Floor Control: the outcome of an OFFER by floor state and role; the detail of
REFUSED-ROLE is the floor state; a LANE-SET that changes the take window leaves a deadline already set. -/
def Obligations.OfferTable : Prop :=
  ∀ (c : LaneCtx) (k : SlotId) (r : IngestRecord) (gap : Bool) (w : Work),
    let p := w.lane.pens
    let made := recordEffect c k .offer r gap w
    let offered := (w.setPens { p with floor := .handover (c.now + BitVec.ofNat 32 p.takeWindow) },
      ({ outcome := if gap then .acceptedGap else .accepted, detail := 1, gap := gap, health := none } :
        Disposition))
    let refused := fun detail => (w,
      ({ outcome := .refusedRole, detail := detail, gap := gap, health := none } : Disposition))
    ((w.slot k).role = .floor → p.floor = .steady → made = offered) ∧
    (∀ deadline, (w.slot k).role = .floor → p.floor = .handover deadline → made = offered) ∧
    ((w.slot k).role = .standby → p.floor = .steady → made = refused 1) ∧
    (∀ deadline, (w.slot k).role = .standby → p.floor = .handover deadline → made = refused 2) ∧
    ((w.slot k).role = .standby → p.floor = .vacant → made = refused 3) ∧
    ∀ q : LaneParams, (setPenParams q w).lane.pens.floor = p.floor ∧
      (setPenParams q w).lane.pens.takeWindow = q.takeWindow

/-- R60, R64: a TAKE in sequence from a STANDBY pen that is eligible after its own charge, while the floor is VACANT,
on offer, or held by a pen that is silent or SUSPECT, transfers the floor to it. One from the floor pen, or from a
STANDBY pen while the floor is held by a pen that is neither and no offer stands, is refused with the floor state
as its detail. -/
def Obligations.TakeTransfersOrIsRefused : Prop :=
  (∀ (l : LaneId) (slot : Nat) (r : IngestFields) (w : Window) (k : SlotId) (s : State),
    InOrder .take l slot w k r s →
    let x := s.lanes.get l
    let p := x.pens.slots.get k
    let o := x.pens.slots.get (otherSlot k)
    x.FloorOk → p.role = .standby → p.fault ≤ 100 →
    (x.pens.floor = .steady → o.silent = true ∨ healthOf o.fault = .suspect) →
    ∃ t, exec (.take l slot r) s = .next t ∧
      let y := t.lanes.get l
      (y.pens.slots.get k).role = .floor ∧ (y.pens.slots.get (otherSlot k)).role ≠ .floor ∧
      (y.pens.slots.get k).fault = p.fault - 1 ∧ (y.pens.slots.get k).base = some r.seq ∧
      (y.pens.slots.get (otherSlot k)).pen = o.pen ∧ (y.pens.slots.get (otherSlot k)).fault = o.fault ∧
      y.pens.floor = .steady ∧ y.pens.standby = [] ∧ y.tracker.hardAlign = true ∧
      y.hold.state = x.hold.state ∧ y.link = x.link ∧ y.tracker.d = x.tracker.d ∧
      (∀ m, m ≠ l → t.lanes.get m = s.lanes.get m) ∧
      Recorded (.lane l) slot w (ingestWords .take r) (acceptedOf 1 (p.fault - 1)) false s t) ∧
  ∀ (l : LaneId) (slot : Nat) (r : IngestFields) (w : Window) (k : SlotId) (s : State),
    InOrder .take l slot w k r s →
    let x := s.lanes.get l
    let p := x.pens.slots.get k
    let o := x.pens.slots.get (otherSlot k)
    x.FloorOk → p.calm →
    (p.role = .floor ∨ (p.role = .standby ∧ x.pens.floor = .steady ∧ o.silent = false ∧
      healthOf o.fault ≠ .suspect)) →
    ∃ t, exec (.take l slot r) s = .next t ∧ t.report = s.report ∧
      t.lanes = s.lanes.set l { x with pens := x.pens.withSlot k (p.afterGood s.timer.f r.seq) } ∧
      Recorded (.lane l) slot w (ingestWords .take r)
        { outcome := .refusedRole,
          detail := (match x.pens.floor with | .steady => 1 | .handover _ => 2 | .vacant => 3),
          gap := false, health := some (healthOf (p.fault - 1)) } false s t

/-- R52, R53, R54: a KEEPALIVE in sequence marks its pen heard, sets the sequence base and takes one fault off;
where that leaves the slot's health, nothing else changes. -/
def Obligations.KeepaliveIsHeard : Prop :=
  ∀ (l : LaneId) (slot : Nat) (r : IngestFields) (w : Window) (k : SlotId) (s : State),
    InOrder .keepalive l slot w k r s →
    let x := s.lanes.get l
    let p := x.pens.slots.get k
    p.calm →
    ∃ t, exec (.keepalive l slot r) s = .next t ∧ t.report = s.report ∧
      t.lanes = s.lanes.set l { x with pens := x.pens.withSlot k (p.afterGood s.timer.f r.seq) } ∧
      Recorded (.lane l) slot w (ingestWords .keepalive r) (acceptedOf 0 (p.fault - 1)) false s t

/-- R55: a KEEPALIVE in sequence from a BARRED pen adds 1 to its run; the one that brings the run to 64 recovers
the pen, with fault count 0, and still receives BARRED, with detail 64 and health GOOD. -/
def Obligations.KeepalivesRecoverABarredPen : Prop :=
  ∀ (l : LaneId) (slot : Nat) (r : IngestFields) (w : Window) (k : SlotId) (s : State),
    Heard .keepalive l slot w k r s →
    let x := s.lanes.get l
    let p := x.pens.slots.get k
    let q := { p with lastHeard := s.timer.f, silent := false, base := some r.seq, keepRun := p.keepRun + 1 }
    (p.base = none ∨ p.base = some (r.seq - 1)) → 200 ≤ p.fault →
    (p.keepRun + 1 < 64 →
      ∃ t, exec (.keepalive l slot r) s = .next t ∧ t.report = s.report ∧
        t.lanes = s.lanes.set l { x with pens := x.pens.withSlot k q } ∧
        Recorded (.lane l) slot w (ingestWords .keepalive r)
          { outcome := .barred, detail := p.keepRun + 1, gap := false, health := some .barred } false s t) ∧
    (p.keepRun + 1 = 64 →
      ∃ t, exec (.keepalive l slot r) s = .next t ∧
        ((t.lanes.get l).pens.slots.get k).fault = 0 ∧ ((t.lanes.get l).pens.slots.get k).keepRun = 0 ∧
        ((t.lanes.get l).pens.slots.get k).pen = p.pen ∧
        (∀ m, m ≠ l → t.lanes.get m = s.lanes.get m) ∧
        Recorded (.lane l) slot w (ingestWords .keepalive r)
          { outcome := .barred, detail := 64, gap := false, health := some .good } false s t)

/-! ## Directives -/

/-- R73, R81, R88, R153: a LANE-SET with parameters in range that enables a lane that was OFF puts it in RUN, or
in the hold of its link mode while the override is on, with its parameters, L at the initial latency and both
tracker flags set; a lane already enabled keeps its state, queues and counters, and L is lowered to a new D below
it. -/
def Obligations.LaneSetEnablesALane : Prop :=
  ∀ (slot : Nat) (p : LaneSetFields) (w : Window) (l : LaneId) (s : State),
    Directed slot w p.lane l s → p.check = recordCheck (laneSetWords true p) → LaneSetInRange p →
    let x := s.lanes.get l
    ∃ t, exec (.laneSetEnable slot p) s = .next t ∧
      Recorded .command slot w (laneSetWords true p) directiveAccepted false s t ∧
      (∀ m, m ≠ l → t.lanes.get m = s.lanes.get m) ∧ t.unit.softOverride = s.unit.softOverride ∧
      let y := t.lanes.get l
      y.tracker.d = p.d.toNat ∧ y.tracker.lmax = p.lmax.toNat ∧ y.tracker.s = p.s.toNat ∧
      y.tracker.g = p.g.toNat ∧ y.tracker.initial = p.initial.toNat ∧ y.pens.q = p.q.toNat ∧
      y.pens.takeWindow = p.takeWindow.toNat ∧ y.composer.c = p.c.toNat ∧ y.composer.r = p.r.toNat ∧
      y.composer.w = p.w.toNat ∧ y.stale = p.stale.toNat ∧
      y.composer.corrMarker = (lowHalf p.corrMarker, highHalf p.corrMarker) ∧
      y.composer.spkMarker = (lowHalf p.spkMarker, highHalf p.spkMarker) ∧
      y.pens.slots = x.pens.slots ∧ y.pens.floor = x.pens.floor ∧ y.link = x.link ∧
      y.hold.tagCounter = x.hold.tagCounter ∧
      (x.hold.state = .off →
        y.tracker.l = p.initial.toNat ∧ y.tracker.hardAlign = true ∧ y.tracker.startPending = true ∧
        y.hold.state = (if s.overrideOn then
          (match x.link with | .none => .run | .soft => .softHeld | .hard => .hardHeld) else .run)) ∧
      (x.hold.state ≠ .off →
        y.hold = x.hold ∧ y.tracker.l = min x.tracker.l p.d.toNat ∧ y.recent = x.recent ∧
        y.pens.standby = x.pens.standby ∧ y.tracker.onsets = x.tracker.onsets ∧
        y.follower = x.follower ∧
        (p.r.toNat = x.composer.r → p.w.toNat = x.composer.w →
          y.composer.emission = x.composer.emission ∧ y.composer.rows = x.composer.rows))

/-- R89: a LANE-SET with parameters in range that disables a lane empties its queues and lists, clears its
counters and tally and puts it OFF; pen slots, floor, link mode and tag counter are kept. -/
def Obligations.LaneSetDisablesALane : Prop :=
  ∀ (slot : Nat) (p : LaneSetFields) (w : Window) (l : LaneId) (s : State),
    Directed slot w p.lane l s → p.check = recordCheck (laneSetWords false p) → LaneSetInRange p →
    let x := s.lanes.get l
    ∃ t, exec (.laneSetDisable slot p) s = .next t ∧
      Recorded .command slot w (laneSetWords false p) directiveAccepted false s t ∧
      (∀ m, m ≠ l → t.lanes.get m = s.lanes.get m) ∧ t.unit.softOverride = s.unit.softOverride ∧
      let y := t.lanes.get l
      y.hold = { state := .off, queue := [], tagCounter := x.hold.tagCounter, tallyEarly := 0,
                 tallyDiscard := 0, counters := .zero } ∧
      y.composer.emission = [] ∧ y.composer.rows = .empty ∧ y.composer.pendingClear = true ∧
      y.composer.eraseDebt = 0 ∧ y.pens.standby = [] ∧ (∀ k, y.recent.get k = []) ∧
      y.tracker.onsets = [] ∧ y.tracker.d = p.d.toNat ∧ y.tracker.l = min x.tracker.l p.d.toNat ∧
      y.pens.slots = x.pens.slots ∧ y.pens.floor = x.pens.floor ∧ y.link = x.link

/-- R51: a PEN-SET that is neither BUSY nor names the other slot's pen gives the slot its pen and role with a
cleared record of faults and sequence, or empties it for pen 0; the other slot keeps its contents. One that is
BUSY is refused with reason 3 and changes nothing. -/
def Obligations.PenSetFillsTheSlot : Prop :=
  ∀ (slot : Nat) (lane : BitVec 8) (b floor : Bool) (pen check : Half) (w : Window) (l : LaneId) (s : State),
    Directed slot w lane l s →
    let ws := directiveWords .penSet (mkWord [lane.toNat, place (bit b) 8, place (bit floor) 9])
      (mkWord [pen.toNat]) [] check
    check = recordCheck ws →
    let k : SlotId := if b then .b else .a
    let x := s.lanes.get l
    let p := x.pens.slots.get k
    let o := x.pens.slots.get (otherSlot k)
    let busy := (p.role = .floor ∧ pen ≠ p.pen) ∨ (p.role = .floor ∧ pen ≠ 0 ∧ floor = false) ∨
      (pen ≠ 0 ∧ floor = true ∧ o.role = .floor)
    ∃ t, exec (.penSet slot lane b floor pen check) s = .next t ∧
      (busy → Untouched s t ∧ Recorded .command slot w ws (directiveRefused 3) false s t) ∧
      (¬ busy → (pen = 0 ∨ o.pen ≠ pen) → x.FloorOk → healthOf p.fault = .good →
        Recorded .command slot w ws directiveAccepted false s t ∧ t.report = s.report ∧
        (∀ m, m ≠ l → t.lanes.get m = s.lanes.get m) ∧
        let y := t.lanes.get l
        y.pens.slots.get (otherSlot k) = o ∧
        (pen = 0 → y.pens.slots.get k = .empty) ∧
        (pen ≠ 0 → y.pens.slots.get k =
          { pen := pen, role := if floor then .floor else .standby, fault := 0, base := none,
            lastHeard := s.timer.f, silent := false, keepRun := 0,
            lastAdmitted := if pen = p.pen then p.lastAdmitted else none }) ∧
        (pen ≠ 0 → floor = true → x.pens.floor = .vacant → y.pens.floor = .steady) ∧
        y.recent = (if pen = p.pen then x.recent else x.recent.set k []) ∧
        y.hold.state = x.hold.state ∧ y.hold.queue = x.hold.queue ∧ y.tracker = x.tracker ∧
        y.follower = x.follower ∧ y.composer = x.composer ∧ y.link = x.link)

/-- R121, R124, R127: a CUE whose block lies in the lane's CUE window makes the follower CUED at its start, with an
empty buffer and cleared runs and counts, and asks for the first records unless a fetch in flight is overtaken;
every token of the lane loses its script index. Without a CUE window it is refused with reason 4, past the end of
it with reason 5. -/
def Obligations.CueRestartsTheFollower : Prop :=
  ∀ (slot : Nat) (lane : BitVec 8) (first : BitVec 12) (count : BitVec 13) (check : Half) (w : Window)
    (l : LaneId) (s : State),
    Directed slot w lane l s →
    let ws := directiveWords .cue (laneWord lane) (mkWord [first.toNat, place count.toNat 16]) [] check
    check = recordCheck ws → 1 ≤ count.toNat → count.toNat ≤ 4096 →
    let x := s.lanes.get l
    ∃ t, exec (.cue slot lane first count check) s = .next t ∧ t.report = s.report ∧
      (s.windowOf .cue (some l) = none →
        Untouched s t ∧ Recorded .command slot w ws (directiveRefused 4) false s t) ∧
      ∀ win, s.windowOf .cue (some l) = some win →
        (win.length < (first.toNat + count.toNat) * 32 →
          Untouched s t ∧ Recorded .command slot w ws (directiveRefused 5) false s t) ∧
        ((first.toNat + count.toNat) * 32 ≤ win.length →
          Recorded .command slot w ws directiveAccepted false s t ∧
          t.lanes = s.lanes.set l
            { x.stripScripts with follower :=
              { state := .cued, cue := some { first := first.toNat, count := count.toNat }, buffer := [],
                fetchPoint := first.toNat, cursor := first.toNat,
                fetch := (match x.follower.fetch with
                  | some f => some { f with overtaken := true }
                  | none => some { first := first.toNat, records := min 2 (min 8 count.toNat),
                                   left := min 8 count.toNat - min 2 (min 8 count.toNat),
                                   overtaken := false }),
                seek := none, missRun := 0, skipCount := 0, starvedCount := 0 } } ∧
          (x.follower.fetch = none →
            { requester := .fetch l, addr := win.base + BitVec.ofNat 28 (32 * first.toNat),
              xfer := .read (8 * min 2 (min 8 count.toNat)) } ∈ t.engine.requests))

/-- R122: an UNCUE makes the follow state NONE and drops cue, buffer, runs and cursor; the counts are kept and a
fetch in flight is overtaken. In NONE it changes nothing. -/
def Obligations.UncueDropsTheCue : Prop :=
  ∀ (slot : Nat) (lane : BitVec 8) (check : Half) (w : Window) (l : LaneId) (s : State),
    Directed slot w lane l s →
    let ws := directiveWords .uncue (laneWord lane) 0 [] check
    check = recordCheck ws →
    let x := s.lanes.get l
    ∃ t, exec (.uncue slot lane check) s = .next t ∧
      Recorded .command slot w ws directiveAccepted false s t ∧ t.report = s.report ∧
      (x.follower.state = .none → t.lanes = s.lanes) ∧
      (x.follower.state ≠ .none → t.lanes = s.lanes.set l
        { x with follower :=
          { x.follower with
            state := .none, cue := none, buffer := [], seek := none, missRun := 0, cursor := 0,
            fetch := x.follower.fetch.map fun f => { f with overtaken := true } } })

/-- R162, R158 to R161: a LINK sets the lane's link mode; in a lane that is OFF, or with the override off, only that
changes; with the override on, the hold of the old mode ends and that of the new starts, with all that they leave,
so that the lane that agrees with its old mode takes the state of the new mode. Mode 3 is refused. -/
def Obligations.LinkSetsTheMode : Prop :=
  ∀ (slot : Nat) (lane : BitVec 8) (mode : BitVec 2) (check : Half) (w : Window) (l : LaneId) (s : State),
    Directed slot w lane l s →
    let ws := directiveWords .link (laneWord lane) (mkWord [mode.toNat]) [] check
    check = recordCheck ws →
    let x := s.lanes.get l
    let m : LinkMode := if mode = 0 then .none else if mode = 1 then .soft else .hard
    ∃ t, exec (.link slot lane mode check) s = .next t ∧
      (mode = 3 → Untouched s t ∧ Recorded .command slot w ws (directiveRefused 2) false s t) ∧
      (mode ≠ 3 →
        Recorded .command slot w ws directiveAccepted false s t ∧ (t.lanes.get l).link = m ∧
        (∀ n, n ≠ l → t.lanes.get n = s.lanes.get n) ∧
        (x.hold.state = .off ∨ s.overrideOn = false →
          t.lanes = s.lanes.set l { x with link := m } ∧ t.report = s.report) ∧
        (x.hold.state ≠ .off → s.overrideOn = true → t.lanes.get l = x.afterLink m s.timer.f) ∧
        (x.hold.state ≠ .off → s.overrideOn = true → s.HoldsOk →
          (t.lanes.get l).hold.state =
            (match m with | .none => .run | .soft => .softHeld | .hard => .hardHeld)))

/-- R156, R158 to R161, R135, R137, R163: an OVERRIDE sets the software flag. Where that turns the effective
override on, each lane in RUN takes the hold of its link mode with all that its start leaves; where it turns it off,
each held lane returns to RUN with all that the end of its hold leaves; where it changes nothing, no lane changes.
Pen slots, the floor and link modes are untouched. The start or end of a hold hands over its OVERRIDE report with
the tokens and standby entries discarded, and at a hard hold's start a LOCKED follower its SCRIPT-STATE report, in
either order (log 4). -/
def Obligations.OverrideHoldsAndReleases : Prop :=
  (∀ (slot : Nat) (on : Bool) (check : Half) (w : Window) (s : State),
    Ready .command slot w s → commandSlotOk slot = true →
    let ws := directiveWords .override 0 (mkWord [bit on]) [] check
    check = recordCheck ws →
    ∃ t, exec (.override slot on check) s = .next t ∧
      Recorded .command slot w ws directiveAccepted false s t ∧ t.unit.softOverride = on ∧
      t.overrideOn = (s.timer.ovr.taken || on) ∧
      (t.overrideOn = s.overrideOn → t.lanes = s.lanes ∧ t.report = s.report) ∧
      (∀ l, (t.lanes.get l).pens.slots = (s.lanes.get l).pens.slots ∧
        (t.lanes.get l).pens.floor = (s.lanes.get l).pens.floor ∧
        (t.lanes.get l).link = (s.lanes.get l).link) ∧
      (s.overrideOn = false → t.overrideOn = true →
        ∀ l, t.lanes.get l = (s.lanes.get l).afterHoldStart) ∧
      (s.overrideOn = true → t.overrideOn = false →
        ∀ l, t.lanes.get l = (s.lanes.get l).afterHoldEnd s.timer.f)) ∧
  ∀ (c : LaneCtx) (cause : HoldCause) (w : Work),
    let x := w.lane
    let tokens := fun y : Lane => y.hold.queue.length + tokenCount y.composer.emission
    let started := c.holdEffect cause x.hold.state .hardHeld x.link (tokens x) x.pens.standby.length
    (softHoldStart c cause w).out = w.out ++ [c.holdEffect cause x.hold.state .softHeld x.link 0 0] ∧
    (softHoldEnd c cause w).out = w.out ++
      [c.holdEffect cause x.hold.state .run x.link (tokens x - tokens (x.afterSoftEnd c.now)) 0] ∧
    (hardHoldStart c cause w).out = w.out ++
      (if c.scriptFirst then c.unlockEffect x.follower ++ [started] else [started] ++ c.unlockEffect x.follower) ∧
    (hardHoldEnd c cause w).out = w.out ++ [c.holdEffect cause x.hold.state .run x.link 0 0]

/-- R98, R100, R135: a FLUSH empties the hold queue, the emission queue, the standby list, the recent lists and the
onset list, empties the row image with a pending CLEAR, moves every admitted token to discarded-flush and counts
every standby entry, and sets both tracker flags; the follower's miss run becomes 0 and its seek run ends, and a
LOCKED follower becomes CUED. The rest is kept. -/
def Obligations.FlushEmptiesTheLane : Prop :=
  ∀ (slot : Nat) (lane : BitVec 8) (check : Half) (w : Window) (l : LaneId) (s : State),
    Directed slot w lane l s →
    let ws := directiveWords .flush (laneWord lane) 0 [] check
    check = recordCheck ws →
    let x := s.lanes.get l
    let tokens := BitVec.ofNat 32 (tokenCount x.composer.emission)
    let held := BitVec.ofNat 32 x.hold.queue.length
    ∃ t, exec (.flush slot lane check) s = .next t ∧
      Recorded .command slot w ws directiveAccepted false s t ∧
      (x.follower.state ≠ .locked → t.report = s.report) ∧
      t.lanes = s.lanes.set l
        { x with
          hold := { x.hold with
            queue := [],
            counters := { x.hold.counters with
              held := x.hold.counters.held - held, queued := x.hold.counters.queued - tokens,
              discFlush := x.hold.counters.discFlush + (held + tokens),
              standbyDiscarded := x.hold.counters.standbyDiscarded + BitVec.ofNat 32 x.pens.standby.length } },
          composer := { x.composer with emission := [], rows := .empty, eraseDebt := 0, pendingClear := true },
          pens := { x.pens with standby := [] },
          recent := { a := [], b := [] },
          tracker := { x.tracker with onsets := [], hardAlign := true, startPending := true },
          follower := { x.follower with
            state := if x.follower.state = .locked then .cued else x.follower.state,
            missRun := 0, seek := none } }

/-- R56: a RESTORE of an empty slot is refused with BAD-VALUE. Of another slot, the fault count becomes 0, the
health GOOD and the keepalive run 0, and the rest of the slot is kept; of a GOOD pen without a report; of another
with a PEN-HEALTH report of cause RESTORE and the failover evaluation. -/
def Obligations.RestoreClearsFaults : Prop :=
  (∀ (slot : Nat) (lane : BitVec 8) (b : Bool) (check : Half) (w : Window) (l : LaneId) (s : State),
    Directed slot w lane l s →
    let ws := directiveWords .restore (mkWord [lane.toNat, place (bit b) 8]) 0 [] check
    check = recordCheck ws →
    let k : SlotId := if b then .b else .a
    let x := s.lanes.get l
    let p := x.pens.slots.get k
    ∃ t, exec (.restore slot lane b check) s = .next t ∧
      (p.pen = 0 → Untouched s t ∧ Recorded .command slot w ws (directiveRefused 2) false s t) ∧
      (p.pen ≠ 0 →
        Recorded .command slot w ws directiveAccepted false s t ∧
        t.lanes = s.lanes.set l (acceptRestore (s.laneCtx l) k { lane := x, out := [] }).lane ∧
        ((t.lanes.get l).pens.slots.get k).fault = 0 ∧ ((t.lanes.get l).pens.slots.get k).health = .good ∧
        (healthOf p.fault = .good → t.report = s.report))) ∧
  ∀ (c : LaneCtx) (k : SlotId) (w : Work), (w.slot k).isEmpty = false →
    let p := w.slot k
    let w1 := w.setSlot k { p with fault := 0, keepRun := 0 }
    (p.health = .good → acceptRestore c k w = w1) ∧
    (p.health ≠ .good → acceptRestore c k w = failover c
      { w1 with out := w.out ++ [.report
        { cause := .penHealth, lane := .lane c.id, ringSlot := none, field := c.now,
          detail := [codeItem (slotCode (some k)), .half p.pen, codeItem p.health.code, codeItem Health.good.code,
            codeItem 0, codeItem 3] }] })

/-- R171, R172, R173: a SNAPSHOT hands a report of seven records with the lane's figures to the Report Unit: it is
staged where fewer than 8 are staged, and dropped and counted otherwise. Where the report writer is idle, it makes
the room test at this hand-over (log 17): the SNAPSHOT that finds seven free records of the ring is begun, its first
record's write entered, and one that finds fewer is dropped and counted. No lane changes. -/
def Obligations.SnapshotIsStaged : Prop :=
  ∀ (slot : Nat) (lane : BitVec 8) (check : Half) (w : Window) (l : LaneId) (s : State),
    Directed slot w lane l s →
    let ws := directiveWords .snapshot (laneWord lane) 0 [] check
    check = recordCheck ws →
    let r : Report := { cause := .snapshot, lane := .lane l, ringSlot := none, field := s.timer.f,
                        detail := snapshotItems l s }
    r.records = 7 ∧
    ∃ t, exec (.snapshot slot lane check) s = .next t ∧
      Recorded .command slot w ws directiveAccepted false s t ∧ t.lanes = s.lanes ∧
      (8 ≤ s.report.staging.length → t.report = { s.report with dropped := s.report.dropped + 1 }) ∧
      (s.report.staging.length < 8 → s.report.phase ≠ .idle →
        t.report = { s.report with staging := s.report.staging ++ [r] }) ∧
      (s.report.staging.length < 8 → s.report.phase = .idle →
        t.report = { s.report with staging := s.report.staging ++ [r] }.begun) ∧
      (s.report.staging = [] → s.report.phase = .idle → 7 ≤ s.report.freeRecords →
        t.report = { s.report with staging := [r], phase := .record 0 } ∧
        s.recordWrite s.report.produce 0 r ∈ t.engine.requests) ∧
      (s.report.staging = [] → s.report.phase = .idle → s.report.freeRecords < 7 →
        t.report = { s.report with dropped := s.report.dropped + 1 })

/-- R169: a STOP is accepted and stays in the handoff stage as the STOP whose write-back's end takes effect; until
then the part is RUNNING and nothing else changes. -/
def Obligations.StopIsAccepted : Prop :=
  ∀ (slot : Nat) (check : Half) (w : Window) (s : State), Ready .command slot w s →
    commandSlotOk slot = true →
    let ws := directiveWords .stop 0 0 [] check
    check = recordCheck ws →
    ∃ t, exec (.stop slot check) s = .next t ∧ Untouched s t ∧ t.unit.partState = .running ∧
      Recorded .command slot w ws directiveAccepted true s t

/-! ## Rules of the lane's blocks -/

/-- R79: with the hard-align flag clear, a measurement m moves L by the step m - L kept within -S to S, and the
result is kept within 0 to D; L changes by S at most, and no report is made. -/
def Obligations.MeasurementStepsTheEstimate : Prop :=
  ∀ (c : LaneCtx) (tag : Half) (a o : Field) (w : Work), w.lane.tracker.hardAlign = false →
    w.lane.tracker.l ≤ w.lane.tracker.d →
    let t := w.lane.tracker
    let m : Int := since o a
    let l' : Int := (measure c tag a o w).lane.tracker.l
    let l : Int := t.l
    let d : Int := t.d
    let limit : Int := t.s
    let step : Int := max (-limit) (min limit (m - l))
    l' = max 0 (min d (l + step)) ∧ l' - l ≤ limit ∧ l - l' ≤ limit ∧
    (measure c tag a o w).out = w.out ∧
    (measure c tag a o w).lane = { w.lane with tracker := { t with l := l'.toNat } }

/-- R13: a guard filter takes a new level at the g-th consecutive sample of it and not before, and a sample of
the taken level discards the run. -/
def Obligations.GuardTakesTheGthSample : Prop :=
  ∀ (x : Guard) (g : Nat), x.run < g →
    x.sample g x.taken = ({ x with run := 0 }, false) ∧
    (x.run + 1 < g → x.sample g (!x.taken) = ({ x with run := x.run + 1 }, false)) ∧
    (x.run + 1 = g → x.sample g (!x.taken) = ({ taken := !x.taken, run := 0 }, true))

/-- R143: a fresh composition with a budget C of 1 or more places a pending CLEAR first, then, in RUN alone, ERASE
cells against the debt, then cells of the emission queue, C in all at most; it ends with the debt while any is
left, and goes on otherwise until the budget is spent or the queue is empty. Each ERASE is counted; what leaves
queued enters emitted. -/
def Obligations.FreshCompositionPlacesCells : Prop :=
  ∀ (state : LaneState) (x : Composer) (k : Counters), 1 ≤ x.c →
    let g := freshCells state x k
    let first : List Cell := if x.pendingClear then [.clear] else []
    let n := min x.eraseDebt (x.c - first.length)
    g.cells.length ≤ x.c ∧ g.composer.pendingClear = false ∧ g.composer.c = x.c ∧
    (state ≠ .run →
      g.cells = first ∧ g.composer = { x with pendingClear := false } ∧ g.counters = k) ∧
    (state = .run → ∃ more,
      g.cells = first ++ List.replicate n .erase ++ more ∧
      g.composer.eraseDebt = x.eraseDebt - n ∧
      g.counters = { k with erasedCells := k.erasedCells + BitVec.ofNat 32 n, queued := g.counters.queued,
                            emitted := g.counters.emitted } ∧
      g.counters.queued + g.counters.emitted = k.queued + k.emitted ∧
      (n < x.eraseDebt → more = [] ∧ g.composer.emission = x.emission ∧ g.composer.rows = x.rows) ∧
      (n = x.eraseDebt → g.cells.length = x.c ∨ g.composer.emission = []))

/-! ## Invariants -/

/-- Each invariant below holds right after a power-on reset. -/
def Obligations.InvariantsHoldAtReset : Prop :=
  (∀ l, (State.reset.lanes.get l).Accounted ∧ (State.reset.lanes.get l).Bounded ∧
    (State.reset.lanes.get l).FloorOk ∧ (State.reset.lanes.get l).Timed) ∧
  State.reset.HoldsOk ∧ State.reset.PathOk ∧ State.reset.StagingOk

/-- R101: every step keeps the accounting of admitted tokens in every lane. -/
def Obligations.AccountingIsInvariant : Prop :=
  ∀ s t : State, (∀ l, (s.lanes.get l).Accounted) → step s = .next t → ∀ l, (t.lanes.get l).Accounted

/-- R67, R74, R82, R92, R104, R140, R172: every step keeps every queue and list of a lane within its capacity, the
latency estimate within the programme delay, and the staging queue within 8 reports. -/
def Obligations.BoundsAreInvariant : Prop :=
  (∀ s t : State, (∀ l, (s.lanes.get l).Bounded) → step s = .next t → ∀ l, (t.lanes.get l).Bounded) ∧
  (∀ s t : State, (∀ l, (s.lanes.get l).Timed) → step s = .next t → ∀ l, (t.lanes.get l).Timed) ∧
  ∀ s t : State, s.StagingOk → step s = .next t → t.StagingOk

/-- R50, R54, R58, R67: every step keeps the floor: one floor pen at most, never BARRED, VACANT exactly when
there is none; standby entries are of the STANDBY slot. -/
def Obligations.FloorIsInvariant : Prop :=
  ∀ s t : State, (∀ l, (s.lanes.get l).FloorOk) → step s = .next t → ∀ l, (t.lanes.get l).FloorOk

/-- R157: every step keeps every lane that is not OFF in the state its link mode and the override give. -/
def Obligations.HoldsAreInvariant : Prop :=
  ∀ s t : State, s.HoldsOk → step s = .next t → t.HoldsOk

/-- R16, R26, R27, R30: every step keeps Port M and the engine's list consistent: an IN-FLIGHT port's access is the
one on Port M, each requester has one access at most, and nobody waits for a FREE Port M. -/
def Obligations.PathIsInvariant : Prop :=
  ∀ s t : State, s.PathOk → step s = .next t → t.PathOk
end

