-- ==== Sys2Proof/Laws/State.lean ====
section
/-!
SUPPORT. One lemma per field per update of the state and of a lane's work, each true by `rfl`, so that no
proof unfolds a record update.
-/
namespace Sys2Proof.Machine

/-! ## Quad and Pair -/

@[simp] theorem Quad.get_set_same {α : Type} (q : Quad α) (l : LaneId) (x : α) : (q.set l x).get l = x := by
  cases l <;> rfl

theorem Quad.get_set_other {α : Type} (q : Quad α) {l k : LaneId} (x : α) (h : k ≠ l) :
    (q.set l x).get k = q.get k := by
  cases l <;> cases k <;> first | rfl | exact absurd rfl h

theorem Quad.get_set {α : Type} (q : Quad α) (l k : LaneId) (x : α) :
    (q.set l x).get k = if k = l then x else q.get k := by
  cases l <;> cases k <;> rfl

@[simp] theorem Quad.set_get {α : Type} (q : Quad α) (l : LaneId) : q.set l (q.get l) = q := by cases l <;> rfl

@[simp] theorem Quad.set_set {α : Type} (q : Quad α) (l : LaneId) (x y : α) :
    (q.set l x).set l y = q.set l y := by cases l <;> rfl

@[simp] theorem Quad.get_all {α : Type} (x : α) (l : LaneId) : (Quad.all x).get l = x := by cases l <;> rfl

@[simp] theorem Pair.get_set_same {α : Type} (p : Pair α) (k : SlotId) (x : α) : (p.set k x).get k = x := by
  cases k <;> rfl

theorem Pair.get_set {α : Type} (p : Pair α) (k j : SlotId) (x : α) :
    (p.set k x).get j = if j = k then x else p.get j := by
  cases k <;> cases j <;> rfl

@[simp] theorem Pair.set_get {α : Type} (p : Pair α) (k : SlotId) : p.set k (p.get k) = p := by cases k <;> rfl

/-! ## Assemblers -/

@[simp] theorem Assemblers.get_set_same (x : Assemblers) (a : AsmId) (y : Assembler) :
    (x.set a y).get a = y := by
  cases a with
  | lane l => exact Quad.get_set_same x.lanes l y
  | command => rfl

theorem Assemblers.get_set (x : Assemblers) (a b : AsmId) (y : Assembler) :
    (x.set a y).get b = if b = a then y else x.get b := by
  cases a <;> cases b <;> simp [Assemblers.set, Assemblers.get, Quad.get_set]

@[simp] theorem Assemblers.set_get (x : Assemblers) (a : AsmId) : x.set a (x.get a) = x := by
  cases a with
  | lane l => simp [Assemblers.set, Assemblers.get]
  | command => rfl

@[simp] theorem Assemblers.set_set (x : Assemblers) (a : AsmId) (y z : Assembler) :
    (x.set a y).set a z = x.set a z := by
  cases a with
  | lane l => simp [Assemblers.set]
  | command => rfl

@[simp] theorem Assemblers.set_commandLost (x : Assemblers) (a : AsmId) (y : Assembler) :
    (x.set a y).commandLost = x.commandLost := by cases a <;> rfl

/-! ## State.setLane -/

@[simp] theorem State.setLane_pending (s : State) (l : LaneId) (x : Lane) : (s.setLane l x).pending = s.pending := rfl
@[simp] theorem State.setLane_freeIndex (s : State) (l : LaneId) (x : Lane) : (s.setLane l x).freeIndex = s.freeIndex := rfl
@[simp] theorem State.setLane_timer (s : State) (l : LaneId) (x : Lane) : (s.setLane l x).timer = s.timer := rfl
@[simp] theorem State.setLane_path (s : State) (l : LaneId) (x : Lane) : (s.setLane l x).path = s.path := rfl
@[simp] theorem State.setLane_engine (s : State) (l : LaneId) (x : Lane) : (s.setLane l x).engine = s.engine := rfl
@[simp] theorem State.setLane_asm (s : State) (l : LaneId) (x : Lane) : (s.setLane l x).asm = s.asm := rfl
@[simp] theorem State.setLane_lanes (s : State) (l : LaneId) (x : Lane) : (s.setLane l x).lanes = s.lanes.set l x := rfl
@[simp] theorem State.setLane_unit (s : State) (l : LaneId) (x : Lane) : (s.setLane l x).unit = s.unit := rfl
@[simp] theorem State.setLane_report (s : State) (l : LaneId) (x : Lane) : (s.setLane l x).report = s.report := rfl

/-! ## State.setAsm -/

@[simp] theorem State.setAsm_pending (s : State) (a : AsmId) (x : Assembler) : (s.setAsm a x).pending = s.pending := rfl
@[simp] theorem State.setAsm_freeIndex (s : State) (a : AsmId) (x : Assembler) : (s.setAsm a x).freeIndex = s.freeIndex := rfl
@[simp] theorem State.setAsm_timer (s : State) (a : AsmId) (x : Assembler) : (s.setAsm a x).timer = s.timer := rfl
@[simp] theorem State.setAsm_path (s : State) (a : AsmId) (x : Assembler) : (s.setAsm a x).path = s.path := rfl
@[simp] theorem State.setAsm_engine (s : State) (a : AsmId) (x : Assembler) : (s.setAsm a x).engine = s.engine := rfl
@[simp] theorem State.setAsm_asm (s : State) (a : AsmId) (x : Assembler) : (s.setAsm a x).asm = s.asm.set a x := rfl
@[simp] theorem State.setAsm_lanes (s : State) (a : AsmId) (x : Assembler) : (s.setAsm a x).lanes = s.lanes := rfl
@[simp] theorem State.setAsm_unit (s : State) (a : AsmId) (x : Assembler) : (s.setAsm a x).unit = s.unit := rfl
@[simp] theorem State.setAsm_report (s : State) (a : AsmId) (x : Assembler) : (s.setAsm a x).report = s.report := rfl

/-! ## State.setPortM -/

@[simp] theorem State.setPortM_pending (s : State) (m : Option MAccess) : (s.setPortM m).pending = s.pending := rfl
@[simp] theorem State.setPortM_freeIndex (s : State) (m : Option MAccess) : (s.setPortM m).freeIndex = s.freeIndex := rfl
@[simp] theorem State.setPortM_timer (s : State) (m : Option MAccess) : (s.setPortM m).timer = s.timer := rfl
@[simp] theorem State.setPortM_path (s : State) (m : Option MAccess) : (s.setPortM m).path = { s.path with portM := m } := rfl
@[simp] theorem State.setPortM_engine (s : State) (m : Option MAccess) : (s.setPortM m).engine = s.engine := rfl
@[simp] theorem State.setPortM_asm (s : State) (m : Option MAccess) : (s.setPortM m).asm = s.asm := rfl
@[simp] theorem State.setPortM_lanes (s : State) (m : Option MAccess) : (s.setPortM m).lanes = s.lanes := rfl
@[simp] theorem State.setPortM_unit (s : State) (m : Option MAccess) : (s.setPortM m).unit = s.unit := rfl
@[simp] theorem State.setPortM_report (s : State) (m : Option MAccess) : (s.setPortM m).report = s.report := rfl

/-! ## State.setReport -/

@[simp] theorem State.setReport_pending (s : State) (r : ReportUnit) : (s.setReport r).pending = s.pending := rfl
@[simp] theorem State.setReport_freeIndex (s : State) (r : ReportUnit) : (s.setReport r).freeIndex = s.freeIndex := rfl
@[simp] theorem State.setReport_timer (s : State) (r : ReportUnit) : (s.setReport r).timer = s.timer := rfl
@[simp] theorem State.setReport_path (s : State) (r : ReportUnit) : (s.setReport r).path = s.path := rfl
@[simp] theorem State.setReport_engine (s : State) (r : ReportUnit) : (s.setReport r).engine = s.engine := rfl
@[simp] theorem State.setReport_asm (s : State) (r : ReportUnit) : (s.setReport r).asm = s.asm := rfl
@[simp] theorem State.setReport_lanes (s : State) (r : ReportUnit) : (s.setReport r).lanes = s.lanes := rfl
@[simp] theorem State.setReport_unit (s : State) (r : ReportUnit) : (s.setReport r).unit = s.unit := rfl
@[simp] theorem State.setReport_report (s : State) (r : ReportUnit) : (s.setReport r).report = r := rfl

/-! ## State.setTimer -/

@[simp] theorem State.setTimer_pending (s : State) (x : FieldTimer) : (s.setTimer x).pending = s.pending := rfl
@[simp] theorem State.setTimer_freeIndex (s : State) (x : FieldTimer) : (s.setTimer x).freeIndex = s.freeIndex := rfl
@[simp] theorem State.setTimer_timer (s : State) (x : FieldTimer) : (s.setTimer x).timer = x := rfl
@[simp] theorem State.setTimer_path (s : State) (x : FieldTimer) : (s.setTimer x).path = s.path := rfl
@[simp] theorem State.setTimer_engine (s : State) (x : FieldTimer) : (s.setTimer x).engine = s.engine := rfl
@[simp] theorem State.setTimer_asm (s : State) (x : FieldTimer) : (s.setTimer x).asm = s.asm := rfl
@[simp] theorem State.setTimer_lanes (s : State) (x : FieldTimer) : (s.setTimer x).lanes = s.lanes := rfl
@[simp] theorem State.setTimer_unit (s : State) (x : FieldTimer) : (s.setTimer x).unit = s.unit := rfl
@[simp] theorem State.setTimer_report (s : State) (x : FieldTimer) : (s.setTimer x).report = s.report := rfl

/-! ## State.setServed -/

@[simp] theorem State.setServed_pending (s : State) (x : Served) : (s.setServed x).pending = s.pending := rfl
@[simp] theorem State.setServed_freeIndex (s : State) (x : Served) : (s.setServed x).freeIndex = s.freeIndex := rfl
@[simp] theorem State.setServed_timer (s : State) (x : Served) : (s.setServed x).timer = s.timer := rfl
@[simp] theorem State.setServed_path (s : State) (x : Served) : (s.setServed x).path = { s.path with lastServed := x } := rfl
@[simp] theorem State.setServed_engine (s : State) (x : Served) : (s.setServed x).engine = s.engine := rfl
@[simp] theorem State.setServed_asm (s : State) (x : Served) : (s.setServed x).asm = s.asm := rfl
@[simp] theorem State.setServed_lanes (s : State) (x : Served) : (s.setServed x).lanes = s.lanes := rfl
@[simp] theorem State.setServed_unit (s : State) (x : Served) : (s.setServed x).unit = s.unit := rfl
@[simp] theorem State.setServed_report (s : State) (x : Served) : (s.setServed x).report = s.report := rfl

/-! ## State.withPending -/

@[simp] theorem State.withPending_pending (s : State) (cs : List Instr) : (s.withPending cs).pending = cs := rfl
@[simp] theorem State.withPending_freeIndex (s : State) (cs : List Instr) : (s.withPending cs).freeIndex = s.freeIndex := rfl
@[simp] theorem State.withPending_timer (s : State) (cs : List Instr) : (s.withPending cs).timer = s.timer := rfl
@[simp] theorem State.withPending_path (s : State) (cs : List Instr) : (s.withPending cs).path = s.path := rfl
@[simp] theorem State.withPending_engine (s : State) (cs : List Instr) : (s.withPending cs).engine = s.engine := rfl
@[simp] theorem State.withPending_asm (s : State) (cs : List Instr) : (s.withPending cs).asm = s.asm := rfl
@[simp] theorem State.withPending_lanes (s : State) (cs : List Instr) : (s.withPending cs).lanes = s.lanes := rfl
@[simp] theorem State.withPending_unit (s : State) (cs : List Instr) : (s.withPending cs).unit = s.unit := rfl
@[simp] theorem State.withPending_report (s : State) (cs : List Instr) : (s.withPending cs).report = s.report := rfl

/-! ## State.setPort -/

@[simp] theorem State.setPort_pending (s : State) (p : Port) (x : PortUnit) : (s.setPort p x).pending = s.pending := by cases p <;> rfl
@[simp] theorem State.setPort_freeIndex (s : State) (p : Port) (x : PortUnit) : (s.setPort p x).freeIndex = s.freeIndex := by cases p <;> rfl
@[simp] theorem State.setPort_timer (s : State) (p : Port) (x : PortUnit) : (s.setPort p x).timer = s.timer := by cases p <;> rfl
@[simp] theorem State.setPort_engine (s : State) (p : Port) (x : PortUnit) : (s.setPort p x).engine = s.engine := by cases p <;> rfl
@[simp] theorem State.setPort_asm (s : State) (p : Port) (x : PortUnit) : (s.setPort p x).asm = s.asm := by cases p <;> rfl
@[simp] theorem State.setPort_lanes (s : State) (p : Port) (x : PortUnit) : (s.setPort p x).lanes = s.lanes := by cases p <;> rfl
@[simp] theorem State.setPort_unit (s : State) (p : Port) (x : PortUnit) : (s.setPort p x).unit = s.unit := by cases p <;> rfl
@[simp] theorem State.setPort_report (s : State) (p : Port) (x : PortUnit) : (s.setPort p x).report = s.report := by cases p <;> rfl

@[simp] theorem State.setPort_path_windows (s : State) (p : Port) (x : PortUnit) : (s.setPort p x).path.windows = s.path.windows := by cases p <;> rfl
@[simp] theorem State.setPort_path_portM (s : State) (p : Port) (x : PortUnit) : (s.setPort p x).path.portM = s.path.portM := by cases p <;> rfl
@[simp] theorem State.setPort_path_lastServed (s : State) (p : Port) (x : PortUnit) : (s.setPort p x).path.lastServed = s.path.lastServed := by cases p <;> rfl
@[simp] theorem State.setPort_path_memLimit (s : State) (p : Port) (x : PortUnit) : (s.setPort p x).path.memLimit = s.path.memLimit := by cases p <;> rfl

@[simp] theorem State.setPort_portUnit (s : State) (p : Port) (x : PortUnit) : (s.setPort p x).portUnit p = x := by
  cases p <;> rfl

theorem State.setPort_portUnit_other (s : State) {p q : Port} (x : PortUnit) (h : q ≠ p) :
    (s.setPort p x).portUnit q = s.portUnit q := by
  cases p <;> cases q <;> first | rfl | exact absurd rfl h

@[simp] theorem State.setPortM_portUnit (s : State) (m : Option MAccess) (p : Port) :
    (s.setPortM m).portUnit p = s.portUnit p := by cases p <;> rfl

@[simp] theorem State.setReport_portUnit (s : State) (r : ReportUnit) (p : Port) :
    (s.setReport r).portUnit p = s.portUnit p := by cases p <;> rfl

/-! ## Work.setFollower -/

@[simp] theorem Work.setFollower_out (w : Work) (x : Follower) : (w.setFollower x).out = w.out := rfl
@[simp] theorem Work.setFollower_pens (w : Work) (x : Follower) : (w.setFollower x).lane.pens = w.lane.pens := rfl
@[simp] theorem Work.setFollower_tracker (w : Work) (x : Follower) : (w.setFollower x).lane.tracker = w.lane.tracker := rfl
@[simp] theorem Work.setFollower_hold (w : Work) (x : Follower) : (w.setFollower x).lane.hold = w.lane.hold := rfl
@[simp] theorem Work.setFollower_recent (w : Work) (x : Follower) : (w.setFollower x).lane.recent = w.lane.recent := rfl
@[simp] theorem Work.setFollower_follower (w : Work) (x : Follower) : (w.setFollower x).lane.follower = x := rfl
@[simp] theorem Work.setFollower_composer (w : Work) (x : Follower) : (w.setFollower x).lane.composer = w.lane.composer := rfl
@[simp] theorem Work.setFollower_link (w : Work) (x : Follower) : (w.setFollower x).lane.link = w.lane.link := rfl
@[simp] theorem Work.setFollower_stale (w : Work) (x : Follower) : (w.setFollower x).lane.stale = w.lane.stale := rfl

/-! ## Work.setComposer -/

@[simp] theorem Work.setComposer_out (w : Work) (x : Composer) : (w.setComposer x).out = w.out := rfl
@[simp] theorem Work.setComposer_pens (w : Work) (x : Composer) : (w.setComposer x).lane.pens = w.lane.pens := rfl
@[simp] theorem Work.setComposer_tracker (w : Work) (x : Composer) : (w.setComposer x).lane.tracker = w.lane.tracker := rfl
@[simp] theorem Work.setComposer_hold (w : Work) (x : Composer) : (w.setComposer x).lane.hold = w.lane.hold := rfl
@[simp] theorem Work.setComposer_recent (w : Work) (x : Composer) : (w.setComposer x).lane.recent = w.lane.recent := rfl
@[simp] theorem Work.setComposer_follower (w : Work) (x : Composer) : (w.setComposer x).lane.follower = w.lane.follower := rfl
@[simp] theorem Work.setComposer_composer (w : Work) (x : Composer) : (w.setComposer x).lane.composer = x := rfl
@[simp] theorem Work.setComposer_link (w : Work) (x : Composer) : (w.setComposer x).lane.link = w.lane.link := rfl
@[simp] theorem Work.setComposer_stale (w : Work) (x : Composer) : (w.setComposer x).lane.stale = w.lane.stale := rfl

/-! ## Work.setTracker -/

@[simp] theorem Work.setTracker_out (w : Work) (x : Tracker) : (w.setTracker x).out = w.out := rfl
@[simp] theorem Work.setTracker_pens (w : Work) (x : Tracker) : (w.setTracker x).lane.pens = w.lane.pens := rfl
@[simp] theorem Work.setTracker_tracker (w : Work) (x : Tracker) : (w.setTracker x).lane.tracker = x := rfl
@[simp] theorem Work.setTracker_hold (w : Work) (x : Tracker) : (w.setTracker x).lane.hold = w.lane.hold := rfl
@[simp] theorem Work.setTracker_recent (w : Work) (x : Tracker) : (w.setTracker x).lane.recent = w.lane.recent := rfl
@[simp] theorem Work.setTracker_follower (w : Work) (x : Tracker) : (w.setTracker x).lane.follower = w.lane.follower := rfl
@[simp] theorem Work.setTracker_composer (w : Work) (x : Tracker) : (w.setTracker x).lane.composer = w.lane.composer := rfl
@[simp] theorem Work.setTracker_link (w : Work) (x : Tracker) : (w.setTracker x).lane.link = w.lane.link := rfl
@[simp] theorem Work.setTracker_stale (w : Work) (x : Tracker) : (w.setTracker x).lane.stale = w.lane.stale := rfl

/-! ## Work.setHold -/

@[simp] theorem Work.setHold_out (w : Work) (x : Hold) : (w.setHold x).out = w.out := rfl
@[simp] theorem Work.setHold_pens (w : Work) (x : Hold) : (w.setHold x).lane.pens = w.lane.pens := rfl
@[simp] theorem Work.setHold_tracker (w : Work) (x : Hold) : (w.setHold x).lane.tracker = w.lane.tracker := rfl
@[simp] theorem Work.setHold_hold (w : Work) (x : Hold) : (w.setHold x).lane.hold = x := rfl
@[simp] theorem Work.setHold_recent (w : Work) (x : Hold) : (w.setHold x).lane.recent = w.lane.recent := rfl
@[simp] theorem Work.setHold_follower (w : Work) (x : Hold) : (w.setHold x).lane.follower = w.lane.follower := rfl
@[simp] theorem Work.setHold_composer (w : Work) (x : Hold) : (w.setHold x).lane.composer = w.lane.composer := rfl
@[simp] theorem Work.setHold_link (w : Work) (x : Hold) : (w.setHold x).lane.link = w.lane.link := rfl
@[simp] theorem Work.setHold_stale (w : Work) (x : Hold) : (w.setHold x).lane.stale = w.lane.stale := rfl

/-! ## Work.setPens -/

@[simp] theorem Work.setPens_out (w : Work) (x : Pens) : (w.setPens x).out = w.out := rfl
@[simp] theorem Work.setPens_pens (w : Work) (x : Pens) : (w.setPens x).lane.pens = x := rfl
@[simp] theorem Work.setPens_tracker (w : Work) (x : Pens) : (w.setPens x).lane.tracker = w.lane.tracker := rfl
@[simp] theorem Work.setPens_hold (w : Work) (x : Pens) : (w.setPens x).lane.hold = w.lane.hold := rfl
@[simp] theorem Work.setPens_recent (w : Work) (x : Pens) : (w.setPens x).lane.recent = w.lane.recent := rfl
@[simp] theorem Work.setPens_follower (w : Work) (x : Pens) : (w.setPens x).lane.follower = w.lane.follower := rfl
@[simp] theorem Work.setPens_composer (w : Work) (x : Pens) : (w.setPens x).lane.composer = w.lane.composer := rfl
@[simp] theorem Work.setPens_link (w : Work) (x : Pens) : (w.setPens x).lane.link = w.lane.link := rfl
@[simp] theorem Work.setPens_stale (w : Work) (x : Pens) : (w.setPens x).lane.stale = w.lane.stale := rfl

/-! ## Work.setSlot -/

@[simp] theorem Work.setSlot_out (w : Work) (k : SlotId) (x : PenSlot) : (w.setSlot k x).out = w.out := rfl
@[simp] theorem Work.setSlot_pens (w : Work) (k : SlotId) (x : PenSlot) : (w.setSlot k x).lane.pens = { w.lane.pens with slots := w.lane.pens.slots.set k x } := rfl
@[simp] theorem Work.setSlot_tracker (w : Work) (k : SlotId) (x : PenSlot) : (w.setSlot k x).lane.tracker = w.lane.tracker := rfl
@[simp] theorem Work.setSlot_hold (w : Work) (k : SlotId) (x : PenSlot) : (w.setSlot k x).lane.hold = w.lane.hold := rfl
@[simp] theorem Work.setSlot_recent (w : Work) (k : SlotId) (x : PenSlot) : (w.setSlot k x).lane.recent = w.lane.recent := rfl
@[simp] theorem Work.setSlot_follower (w : Work) (k : SlotId) (x : PenSlot) : (w.setSlot k x).lane.follower = w.lane.follower := rfl
@[simp] theorem Work.setSlot_composer (w : Work) (k : SlotId) (x : PenSlot) : (w.setSlot k x).lane.composer = w.lane.composer := rfl
@[simp] theorem Work.setSlot_link (w : Work) (k : SlotId) (x : PenSlot) : (w.setSlot k x).lane.link = w.lane.link := rfl
@[simp] theorem Work.setSlot_stale (w : Work) (k : SlotId) (x : PenSlot) : (w.setSlot k x).lane.stale = w.lane.stale := rfl

/-! ## Work.setRole -/

@[simp] theorem Work.setRole_out (w : Work) (k : SlotId) (r : Role) : (w.setRole k r).out = w.out := rfl
@[simp] theorem Work.setRole_pens (w : Work) (k : SlotId) (r : Role) : (w.setRole k r).lane.pens = { w.lane.pens with slots := w.lane.pens.slots.set k { w.slot k with role := r } } := rfl
@[simp] theorem Work.setRole_tracker (w : Work) (k : SlotId) (r : Role) : (w.setRole k r).lane.tracker = w.lane.tracker := rfl
@[simp] theorem Work.setRole_hold (w : Work) (k : SlotId) (r : Role) : (w.setRole k r).lane.hold = w.lane.hold := rfl
@[simp] theorem Work.setRole_recent (w : Work) (k : SlotId) (r : Role) : (w.setRole k r).lane.recent = w.lane.recent := rfl
@[simp] theorem Work.setRole_follower (w : Work) (k : SlotId) (r : Role) : (w.setRole k r).lane.follower = w.lane.follower := rfl
@[simp] theorem Work.setRole_composer (w : Work) (k : SlotId) (r : Role) : (w.setRole k r).lane.composer = w.lane.composer := rfl
@[simp] theorem Work.setRole_link (w : Work) (k : SlotId) (r : Role) : (w.setRole k r).lane.link = w.lane.link := rfl
@[simp] theorem Work.setRole_stale (w : Work) (k : SlotId) (r : Role) : (w.setRole k r).lane.stale = w.lane.stale := rfl

/-! ## Work.setState -/

@[simp] theorem Work.setState_out (w : Work) (x : LaneState) : (w.setState x).out = w.out := rfl
@[simp] theorem Work.setState_pens (w : Work) (x : LaneState) : (w.setState x).lane.pens = w.lane.pens := rfl
@[simp] theorem Work.setState_tracker (w : Work) (x : LaneState) : (w.setState x).lane.tracker = w.lane.tracker := rfl
@[simp] theorem Work.setState_hold (w : Work) (x : LaneState) : (w.setState x).lane.hold = { w.lane.hold with state := x } := rfl
@[simp] theorem Work.setState_recent (w : Work) (x : LaneState) : (w.setState x).lane.recent = w.lane.recent := rfl
@[simp] theorem Work.setState_follower (w : Work) (x : LaneState) : (w.setState x).lane.follower = w.lane.follower := rfl
@[simp] theorem Work.setState_composer (w : Work) (x : LaneState) : (w.setState x).lane.composer = w.lane.composer := rfl
@[simp] theorem Work.setState_link (w : Work) (x : LaneState) : (w.setState x).lane.link = w.lane.link := rfl
@[simp] theorem Work.setState_stale (w : Work) (x : LaneState) : (w.setState x).lane.stale = w.lane.stale := rfl

/-! ## Work.count -/

@[simp] theorem Work.count_out (w : Work) (f : Counters → Counters) : (w.count f).out = w.out := rfl
@[simp] theorem Work.count_pens (w : Work) (f : Counters → Counters) : (w.count f).lane.pens = w.lane.pens := rfl
@[simp] theorem Work.count_tracker (w : Work) (f : Counters → Counters) : (w.count f).lane.tracker = w.lane.tracker := rfl
@[simp] theorem Work.count_hold (w : Work) (f : Counters → Counters) : (w.count f).lane.hold = { w.lane.hold with counters := f w.lane.hold.counters } := rfl
@[simp] theorem Work.count_recent (w : Work) (f : Counters → Counters) : (w.count f).lane.recent = w.lane.recent := rfl
@[simp] theorem Work.count_follower (w : Work) (f : Counters → Counters) : (w.count f).lane.follower = w.lane.follower := rfl
@[simp] theorem Work.count_composer (w : Work) (f : Counters → Counters) : (w.count f).lane.composer = w.lane.composer := rfl
@[simp] theorem Work.count_link (w : Work) (f : Counters → Counters) : (w.count f).lane.link = w.lane.link := rfl
@[simp] theorem Work.count_stale (w : Work) (f : Counters → Counters) : (w.count f).lane.stale = w.lane.stale := rfl

/-! ## Reports of a lane -/

@[simp] theorem Work.reportAt_lane (w : Work) (c : LaneCtx) (f : Field) (k : Cause) (d : List Item) :
    (w.reportAt c f k d).lane = w.lane := rfl

@[simp] theorem Work.report_lane (w : Work) (c : LaneCtx) (k : Cause) (d : List Item) :
    (w.report c k d).lane = w.lane := rfl

theorem Work.report_out (w : Work) (c : LaneCtx) (k : Cause) (d : List Item) :
    (w.report c k d).out =
      w.out ++ [.report { cause := k, lane := .lane c.id, ringSlot := none, field := c.now, detail := d }] := rfl

@[simp] theorem Work.setSlot_slot (w : Work) (k : SlotId) (x : PenSlot) : (w.setSlot k x).slot k = x :=
  Pair.get_set_same _ k x

theorem Work.setSlot_slot_any (w : Work) (k j : SlotId) (x : PenSlot) :
    (w.setSlot k x).slot j = if j = k then x else w.slot j := Pair.get_set _ k j x

@[simp] theorem Work.setPens_slot (w : Work) (p : Pens) (j : SlotId) : (w.setPens p).slot j = p.slots.get j := rfl

end Sys2Proof.Machine
end

