-- ==== Sys2Proof/Laws/Units.lean ====
section
/-!
SUPPORT. What the shared units' operations can do: the Transfer Engine's list and the Report Unit change
nothing but themselves, and a lane's work changes its lane and them.
-/
namespace Sys2Proof.Machine

/-- `t` is `s` but for the Transfer Engine and the Report Unit. -/
structure SharedOnly (s t : State) : Prop where
  pending : t.pending = s.pending
  freeIndex : t.freeIndex = s.freeIndex
  timer : t.timer = s.timer
  path : t.path = s.path
  asm : t.asm = s.asm
  lanes : t.lanes = s.lanes
  unit : t.unit = s.unit

theorem SharedOnly.refl (s : State) : SharedOnly s s := ⟨rfl, rfl, rfl, rfl, rfl, rfl, rfl⟩

theorem SharedOnly.trans {s t u : State} (h : SharedOnly s t) (k : SharedOnly t u) : SharedOnly s u :=
  ⟨k.1.trans h.1, k.2.trans h.2, k.3.trans h.3, k.4.trans h.4, k.5.trans h.5, k.6.trans h.6, k.7.trans h.7⟩

theorem SharedOnly.ite {s a b : State} {p : Prop} [Decidable p] (h : SharedOnly s a) (k : SharedOnly s b) :
    SharedOnly s (if p then a else b) := by split <;> assumption

theorem SharedOnly.foldl {α : Type} (f : State → α → State) (h : ∀ s x, SharedOnly s (f s x)) (xs : List α)
    (s : State) : SharedOnly s (xs.foldl f s) := by
  induction xs generalizing s with
  | nil => exact .refl s
  | cons x xs ih => exact (h s x).trans (ih _)

theorem setReport_shared (s : State) (r : ReportUnit) : SharedOnly s (s.setReport r) :=
  ⟨rfl, rfl, rfl, rfl, rfl, rfl, rfl⟩

theorem enterRequest_shared (q : Request) (s : State) : SharedOnly s (enterRequest q s) := by
  unfold enterRequest; split <;> exact ⟨rfl, rfl, rfl, rfl, rfl, rfl, rfl⟩

/-- Entering an access changes no report. -/
@[simp] theorem enterRequest_report (q : Request) (s : State) : (enterRequest q s).report = s.report := by
  unfold enterRequest; split <;> rfl

theorem enterRequest_free {q : Request} {s : State} (h : s.requesterBusy q.requester = false) :
    (enterRequest q s).engine = { s.engine with requests := s.engine.requests ++ [q] } := by
  unfold enterRequest; simp [h]

theorem withdrawRequest_shared (r : Requester) (s : State) : SharedOnly s (withdrawRequest r s) :=
  ⟨rfl, rfl, rfl, rfl, rfl, rfl, rfl⟩

@[simp] theorem withdrawRequest_report (r : Requester) (s : State) : (withdrawRequest r s).report = s.report := rfl

theorem promoteDeferred_shared (s : State) : SharedOnly s (promoteDeferred s) :=
  (⟨rfl, rfl, rfl, rfl, rfl, rfl, rfl⟩ : SharedOnly s { s with engine := { s.engine with deferred := [] } }).trans
    (.foldl _ (fun t q => enterRequest_shared q t) _ _)

theorem enterRecord_shared (i : Nat) (s : State) : SharedOnly s (enterRecord i s) := by
  unfold enterRecord
  split
  · exact .refl s
  · exact (setReport_shared s _).trans (enterRequest_shared _ _)

theorem enterDropped_shared (s : State) : SharedOnly s (enterDropped s) :=
  (setReport_shared s _).trans (enterRequest_shared _ _)

theorem enterProduce_shared (s : State) : SharedOnly s (enterProduce s) :=
  (setReport_shared s _).trans (enterRequest_shared _ _)

theorem writerBegin_shared (s : State) : SharedOnly s (writerBegin s) := by
  unfold writerBegin
  split
  · exact (setReport_shared s _).trans (enterRecord_shared 0 _)
  · exact .refl s

theorem afterRecords_shared (s : State) : SharedOnly s (afterRecords s) := by
  unfold afterRecords; split
  · exact enterProduce_shared s
  · exact enterDropped_shared s

theorem writerNext_shared (s : State) : SharedOnly s (writerNext s) :=
  (setReport_shared s _).trans (writerBegin_shared _)

theorem enterStartProduce_shared (s : State) : SharedOnly s (enterStartProduce s) :=
  (setReport_shared s _).trans (enterRequest_shared _ _)

theorem writerFailed_shared (s : State) : SharedOnly s (writerFailed s) := by
  unfold writerFailed
  cases s.report.phase
  · exact .refl s
  · exact (setReport_shared s _).trans (enterStartProduce_shared _)
  · exact (setReport_shared s _).trans (writerBegin_shared _)
  · exact (setReport_shared s _).trans (writerNext_shared _)
  · exact (setReport_shared s _).trans (writerNext_shared _)
  · exact (setReport_shared s _).trans (writerNext_shared _)

theorem writerDone_shared (s : State) : SharedOnly s (writerDone s) := by
  unfold writerDone
  cases s.report.phase
  · exact .refl s
  · exact enterStartProduce_shared s
  · exact (setReport_shared s _).trans (writerBegin_shared _)
  · exact .ite (enterRecord_shared _ s) (afterRecords_shared s)
  · exact (setReport_shared s _).trans (enterProduce_shared _)
  · exact (setReport_shared s _).trans (writerNext_shared _)

/-- R172: a hand-over changes nothing but the Report Unit and the Transfer Engine. -/
theorem handReport_shared (r : Report) (s : State) : SharedOnly s (handReport r s) := by
  unfold handReport
  split
  · split
    · exact (setReport_shared s _).trans (writerBegin_shared _)
    · exact setReport_shared s _
  · exact .refl s

/-- R172: a report that is not taken changes nothing. -/
theorem handReport_notTaken {r : Report} {s : State} (h : s.takesReport r.cause = false) :
    handReport r s = s := by
  unfold handReport; simp [h]

/-- R172: a report that finds the staging queue full is dropped and counted. -/
theorem handReport_full {r : Report} {s : State} (h : s.takesReport r.cause = true)
    (full : Config.stagingCap ≤ s.report.staging.length) :
    handReport r s = s.setReport { s.report with dropped := s.report.dropped + 1 } := by
  unfold handReport; simp [h, Nat.not_lt.mpr full]

/-- R172: while the writer is at work, a report with room is appended to the staging queue. -/
theorem handReport_staged {r : Report} {s : State} (h : s.takesReport r.cause = true)
    (room : s.report.staging.length < Config.stagingCap) (busy : s.report.phase ≠ .idle) :
    handReport r s = s.setReport { s.report with staging := s.report.staging ++ [r] } := by
  unfold handReport writerBegin; simp [h, room, busy]

theorem applyEffect_shared (l : LaneId) (s : State) (e : Effect) : SharedOnly s (applyEffect l s e) := by
  cases e with
  | report r => exact handReport_shared r s
  | burst a n => exact enterRequest_shared _ s

/-- The effects of a lane's work reach the shared units only. -/
theorem finishWork_shared (l : LaneId) (w : Work) (s : State) :
    SharedOnly (s.setLane l w.lane) (finishWork l w s) :=
  .foldl _ (applyEffect_shared l) _ _

/-- The work of `f` on lane `l` of `s`. -/
def laneWork (l : LaneId) (f : LaneCtx → Work → Work) (s : State) : Work :=
  f (s.laneCtx l) { lane := s.lanes.get l, out := [] }

/-- A piece of a lane's work changes that lane, the counter of open orders and the shared units. -/
theorem runLane_shared (l : LaneId) (f : LaneCtx → Work → Work) (s : State) :
    SharedOnly { s with freeIndex := s.freeIndex + 1, lanes := s.lanes.set l (laneWork l f s).lane }
      (runLane l f s) :=
  finishWork_shared l (laneWork l f s) { s with freeIndex := s.freeIndex + 1 }

@[simp] theorem runLane_lanes (l : LaneId) (f : LaneCtx → Work → Work) (s : State) :
    (runLane l f s).lanes = s.lanes.set l (laneWork l f s).lane := (runLane_shared l f s).lanes
@[simp] theorem runLane_timer (l : LaneId) (f : LaneCtx → Work → Work) (s : State) :
    (runLane l f s).timer = s.timer := (runLane_shared l f s).timer
@[simp] theorem runLane_path (l : LaneId) (f : LaneCtx → Work → Work) (s : State) :
    (runLane l f s).path = s.path := (runLane_shared l f s).path
@[simp] theorem runLane_asm (l : LaneId) (f : LaneCtx → Work → Work) (s : State) :
    (runLane l f s).asm = s.asm := (runLane_shared l f s).asm
@[simp] theorem runLane_unit (l : LaneId) (f : LaneCtx → Work → Work) (s : State) :
    (runLane l f s).unit = s.unit := (runLane_shared l f s).unit
@[simp] theorem runLane_pending (l : LaneId) (f : LaneCtx → Work → Work) (s : State) :
    (runLane l f s).pending = s.pending := (runLane_shared l f s).pending
@[simp] theorem runLane_freeIndex (l : LaneId) (f : LaneCtx → Work → Work) (s : State) :
    (runLane l f s).freeIndex = s.freeIndex + 1 := (runLane_shared l f s).freeIndex

/-- Work that asks for nothing changes no shared unit. -/
theorem runLane_quiet {l : LaneId} {f : LaneCtx → Work → Work} {s : State} (h : (laneWork l f s).out = []) :
    runLane l f s = { s with freeIndex := s.freeIndex + 1, lanes := s.lanes.set l (laneWork l f s).lane } := by
  unfold runLane finishWork
  rw [show (f (s.laneCtx l) { lane := s.lanes.get l, out := [] }).out = [] from h]
  rfl

@[simp] theorem handReport_lanes (r : Report) (s : State) : (handReport r s).lanes = s.lanes :=
  (handReport_shared r s).lanes
@[simp] theorem handReport_timer (r : Report) (s : State) : (handReport r s).timer = s.timer :=
  (handReport_shared r s).timer
@[simp] theorem handReport_path (r : Report) (s : State) : (handReport r s).path = s.path :=
  (handReport_shared r s).path
@[simp] theorem handReport_asm (r : Report) (s : State) : (handReport r s).asm = s.asm :=
  (handReport_shared r s).asm
@[simp] theorem handReport_unit (r : Report) (s : State) : (handReport r s).unit = s.unit :=
  (handReport_shared r s).unit
@[simp] theorem handReport_pending (r : Report) (s : State) : (handReport r s).pending = s.pending :=
  (handReport_shared r s).pending

@[simp] theorem enterRequest_lanes (q : Request) (s : State) : (enterRequest q s).lanes = s.lanes :=
  (enterRequest_shared q s).lanes
@[simp] theorem enterRequest_timer (q : Request) (s : State) : (enterRequest q s).timer = s.timer :=
  (enterRequest_shared q s).timer
@[simp] theorem enterRequest_path (q : Request) (s : State) : (enterRequest q s).path = s.path :=
  (enterRequest_shared q s).path
@[simp] theorem enterRequest_asm (q : Request) (s : State) : (enterRequest q s).asm = s.asm :=
  (enterRequest_shared q s).asm
@[simp] theorem enterRequest_unit (q : Request) (s : State) : (enterRequest q s).unit = s.unit :=
  (enterRequest_shared q s).unit
@[simp] theorem enterRequest_pending (q : Request) (s : State) : (enterRequest q s).pending = s.pending :=
  (enterRequest_shared q s).pending

end Sys2Proof.Machine
end

