-- ==== Sys2Proof/Laws/Commands.lean ====
section
/-!
SUPPORT. Every command's answer in one form: a well-formed command answers the next state that its effect
gives, and an ill-formed one is refused.
-/
namespace Sys2Proof.Machine

/-- The state a command leaves (the host's records as the bursts they are). -/
def effect (i : Instr) (s : State) : State :=
  match i with
  | .powerOnReset straps => resetPart .power straps s
  | .resetPin straps => resetPart .pin straps s
  | .realFp fo v => takeFp fo v s
  | .realLp v => takeLp v s
  | .synthesisedLine v => takeSynthesised v s
  | .lpAbsence v => takeAbsence v s
  | .upstreamAccess p x => receive p x s
  | .airWord0Read l n => readAir l n s
  | .consumeIndexWrite x => writeConsume x s
  | .start rest => receive .h (startAccess rest s) s
  | .upstreamAccessEnd a => answerIf ofPort a s
  | .responseTimerExpiry => expire s
  | .lateMemoryAnswer _ => s
  | .dispositionWritebackEnd => answerIf ofWriteback (.done []) s
  | .token l slot r => hostWrites (.lane l) slot (ingestWords .token r) s
  | .correct l slot r => hostWrites (.lane l) slot (ingestWords .correct r) s
  | .offer l slot r => hostWrites (.lane l) slot (ingestWords .offer r) s
  | .take l slot r => hostWrites (.lane l) slot (ingestWords .take r) s
  | .keepalive l slot r => hostWrites (.lane l) slot (ingestWords .keepalive r) s
  | .scriptFetchBurstEnd a => answerIf ofFetch a s
  | .laneSetEnable slot p => hostWrites .command slot (laneSetWords true p) s
  | .laneSetDisable slot p => hostWrites .command slot (laneSetWords false p) s
  | .penSet slot lane b f pen check =>
    hostWrites .command slot
      (directiveWords .penSet (mkWord [lane.toNat, place (bit b) 8, place (bit f) 9]) (mkWord [pen.toNat]) [] check) s
  | .cue slot lane first count check =>
    hostWrites .command slot
      (directiveWords .cue (laneWord lane) (mkWord [first.toNat, place count.toNat 16]) [] check) s
  | .uncue slot lane check => hostWrites .command slot (directiveWords .uncue (laneWord lane) 0 [] check) s
  | .link slot lane mode check =>
    hostWrites .command slot (directiveWords .link (laneWord lane) (mkWord [mode.toNat]) [] check) s
  | .override slot on check =>
    hostWrites .command slot (directiveWords .override 0 (mkWord [bit on]) [] check) s
  | .flush slot lane check => hostWrites .command slot (directiveWords .flush (laneWord lane) 0 [] check) s
  | .restore slot lane b check =>
    hostWrites .command slot
      (directiveWords .restore (mkWord [lane.toNat, place (bit b) 8]) 0 [] check) s
  | .snapshot slot lane check => hostWrites .command slot (directiveWords .snapshot (laneWord lane) 0 [] check) s
  | .stop slot check => hostWrites .command slot (directiveWords .stop 0 0 [] check) s
  | .reportAccessEnd => answerIf (fun o => o == .engine .report) (.done []) s
  | .setupResultWriteEnd => answerIf (fun o => o == .engine .setupResult) (.done []) s

/-- Every command answers its effect, or is refused for its operands. -/
theorem exec_eq (i : Instr) (s : State) : exec i s = answer i.wf (effect i s) := by cases i <;> rfl

/-- A meaning's answer, read back: the operands make a command, and the next state is the one given. -/
theorem answer_next {ok : Bool} {t u : State} (h : answer ok t = .next u) : ok = true ∧ u = t := by
  unfold answer at h
  split at h
  · rename_i k; exact ⟨k, by injection h with h; exact h.symm⟩
  · cases h

/-- A well-formed command answers a next state. -/
theorem exec_of_wf {i : Instr} (h : i.wf = true) (s : State) : exec i s = .next (effect i s) := by
  rw [exec_eq, h]; rfl

/-- The next state of a command is its effect. -/
theorem exec_next {i : Instr} {s t : State} (h : exec i s = .next t) : i.wf = true ∧ t = effect i s :=
  answer_next ((exec_eq i s).symm.trans h)

/-- A step on an empty queue idles. -/
theorem step_idle {s : State} (h : s.pending = []) : step s = .next s := by unfold step; rw [h]

/-- A step carries out the command at the front of the queue on the rest. -/
theorem step_front (s : State) (c : Instr) (rest : List Instr) :
    step (s.withPending (c :: rest)) = exec c (s.withPending rest) := rfl

/-- What a step can do: idle, or the effect of the front command. -/
theorem step_next {s t : State} (h : step s = .next t) :
    (s.pending = [] ∧ t = s) ∨
      ∃ c rest, s.pending = c :: rest ∧ c.wf = true ∧ t = effect c (s.withPending rest) := by
  unfold step at h
  split at h
  · rename_i e
    injection h with h
    exact .inl ⟨e, h.symm⟩
  · rename_i c rest e
    exact .inr ⟨c, rest, e, exec_next h⟩

end Sys2Proof.Machine
end

