-- ==== Sys2Proof/Laws/Burst.lean ====
section
/-!
SUPPORT. What the host's recommended burst does (section 3.2): a burst that finds its ring ready is granted at
its arrival, its record is processed, and its words leave for memory with word 2 stamped.
-/
namespace Sys2Proof.Machine

/-! ## One word -/

/-- A Port H write of a word of an INGEST or COMMAND window goes to the window's assembler (R20). -/
theorem takeWrite_ring {s : State} {x : Addr} {w : Window} (d : Word) (h : s.regionOf x = .window w)
    (k : w.kind = .ingest ∨ w.kind = .command) :
    takeWrite .h x d s =
      ((copyWord w.assembler (w.offset x) d s).1, .store (copyWord w.assembler (w.offset x) d s).2) := by
  have hr : s.writeRefused .h x = false := by
    unfold State.writeRefused; rw [h]; rcases k with k | k <;> simp [k]
  unfold takeWrite passWrite
  rw [h, hr]
  rcases k with k | k <;> simp [k]

/-- The words 1 to 14 collected into a record from word `k` on (R35, R36). -/
def collectAll (now : Field) : PartialRec → Nat → List Word → PartialRec
  | p, _, [] => p
  | p, k, d :: ds => collectAll now (p.collect k d now) (k + 1) ds

theorem collect_slot (p : PartialRec) (k : Nat) (d : Word) (now : Field) : (p.collect k d now).slot = p.slot := by
  unfold PartialRec.collect; split <;> rfl

/-- The data that leave for memory: word 2 stamped, the others as written (R20, R36). -/
def stamped (now : Field) : Nat → List Word → List Taken
  | _, [] => []
  | k, d :: ds => .store (if k = 2 then now else d) :: stamped now (k + 1) ds

/-- A word `k` from 1 to 14 of the slot in assembly is collected (R35). -/
theorem laterWord_collect {a : AsmId} {s : State} {p : PartialRec} {k : Nat} (d : Word)
    (h : (s.asm.get a).stage = .incomplete p) (hk : k ≠ 15) :
    laterWord a p.slot k d s =
      (s.setAsm a { s.asm.get a with stage := .incomplete (p.collect k d s.timer.f) },
       if k = 2 then s.timer.f else d) := by
  unfold laterWord; rw [h]; simp [hk]

/-- Word 15 of the slot in assembly completes the record (R38). -/
theorem laterWord_complete {a : AsmId} {s : State} {p : PartialRec} (d : Word)
    (h : (s.asm.get a).stage = .incomplete p) :
    laterWord a p.slot 15 d s = (completeRecord a p d s, d) := by
  unfold laterWord; rw [h]; simp

/-! ## Addresses of a slot -/

theorem slot_addr {base : Addr} {len slot : Nat} (k : Nat) (hk : k < 16) (h : slot < len / 64)
    (top : base.toNat + len ≤ 2 ^ 28) :
    (base + BitVec.ofNat 28 (64 * slot) + BitVec.ofNat 28 (4 * k)).toNat = base.toNat + (64 * slot + 4 * k) := by
  have h1 : 64 * slot + 64 ≤ len := by omega
  rw [BitVec.toNat_add, BitVec.toNat_add, BitVec.toNat_ofNat, BitVec.toNat_ofNat]
  omega

theorem slot_addr_next (x : Addr) (k : Nat) :
    x + BitVec.ofNat 28 (4 * k) + 4 = x + BitVec.ofNat 28 (4 * (k + 1)) := by
  rw [BitVec.add_assoc]
  congr 1
  apply BitVec.eq_of_toNat_eq
  simp [BitVec.toNat_add, BitVec.toNat_ofNat]
  omega

theorem slot_covers {w : Window} {slot : Nat} (k : Nat) (hk : k < 16) (h : slot < w.length / 64)
    (top : w.base.toNat + w.length ≤ 2 ^ 28) :
    w.covers (w.base + BitVec.ofNat 28 (64 * slot) + BitVec.ofNat 28 (4 * k)) = true := by
  unfold Window.covers
  rw [slot_addr k hk h top]
  have h1 : 64 * slot + 64 ≤ w.length := by omega
  simp
  omega

theorem slot_offset {w : Window} {slot : Nat} (k : Nat) (hk : k < 16) (h : slot < w.length / 64)
    (top : w.base.toNat + w.length ≤ 2 ^ 28) :
    w.offset (w.base + BitVec.ofNat 28 (64 * slot) + BitVec.ofNat 28 (4 * k)) = 64 * slot + 4 * k := by
  unfold Window.offset
  rw [slot_addr k hk h top]
  omega

/-! ## The words of a burst -/

/-- What a burst needs of the ring whatever the assembler holds. -/
structure RingAt (a : AsmId) (slot : Nat) (w : Window) (s : State) : Prop where
  asm : w.assembler = a
  kind : w.kind = .ingest ∨ w.kind = .command
  slotIn : slot < w.length / 64
  top : w.base.toNat + w.length ≤ 2 ^ 28
  alone : ∀ x : Addr, w.covers x = true → s.regionOf x = .window w

theorem RingAt.of_path {a : AsmId} {slot : Nat} {w : Window} {s t : State} (h : RingAt a slot w s)
    (u : t.unit = s.unit) (v : t.path.windows = s.path.windows) : RingAt a slot w t := by
  refine ⟨h.asm, h.kind, h.slotIn, h.top, fun x hx => ?_⟩
  have := h.alone x hx
  unfold State.regionOf State.bootBase at *
  rw [u, v]; exact this

/-- Word `k` of the slot at its address is a copy to the assembler. -/
theorem RingAt.word {a : AsmId} {slot : Nat} {w : Window} {s : State} (h : RingAt a slot w s) (k : Nat)
    (hk : k < 16) (d : Word) :
    takeWrite .h (w.base + BitVec.ofNat 28 (64 * slot) + BitVec.ofNat 28 (4 * k)) d s =
      ((if k = 0 then (startRecord a slot d s, d) else laterWord a slot k d s).1,
       .store (if k = 0 then (startRecord a slot d s, d) else laterWord a slot k d s).2) := by
  rw [takeWrite_ring d (h.alone _ (slot_covers k hk h.slotIn h.top)) h.kind, h.asm,
    slot_offset k hk h.slotIn h.top]
  have e1 : (64 * slot + 4 * k) % 64 / 4 = k := by omega
  have e2 : (64 * slot + 4 * k) / 64 = slot := by omega
  unfold copyWord
  rw [e1, e2]

/-- The words 1 to 14 from word `k` on, written to the slot in assembly. -/
theorem takeWrites_collect {a : AsmId} {slot : Nat} {w : Window} (ds : List Word) :
    ∀ (k : Nat) (s : State) (p : PartialRec), RingAt a slot w s → 1 ≤ k → k + ds.length ≤ 15 →
      (s.asm.get a).stage = .incomplete p → p.slot = slot →
      takeWrites .h (w.base + BitVec.ofNat 28 (64 * slot) + BitVec.ofNat 28 (4 * k)) ds s =
        (s.setAsm a { s.asm.get a with stage := .incomplete (collectAll s.timer.f p k ds) },
         stamped s.timer.f k ds) := by
  induction ds with
  | nil =>
    intro k s p _ _ _ hs _
    have : s.setAsm a { s.asm.get a with stage := .incomplete p } = s := by
      rw [← hs]
      show { s with asm := s.asm.set a (s.asm.get a) } = s
      rw [Assemblers.set_get]
    simp only [takeWrites, collectAll, stamped, this]
  | cons d ds ih =>
    intro k s p R h1 h2 hs hp
    simp only [List.length_cons] at h2
    have hw := R.word k (by omega) d
    rw [if_neg (by omega), ← hp, laterWord_collect d hs (by omega)] at hw
    rw [hp] at hw
    have hi := ih (k + 1) (s.setAsm a { s.asm.get a with stage := .incomplete (p.collect k d s.timer.f) })
      (p.collect k d s.timer.f) (R.of_path rfl rfl) (by omega) (by omega) (by simp)
      ((collect_slot p k d _).trans hp)
    simp only [takeWrites, hw, slot_addr_next, collectAll, stamped]
    rw [hi]
    simp [State.setAsm]

/-- A burst in two parts (R17: the words are taken in ascending order). -/
theorem takeWrites_append (p : Port) (x : Addr) (xs ys : List Word) :
    ∀ (k : Nat) (s : State),
      takeWrites p (x + BitVec.ofNat 28 (4 * k)) (xs ++ ys) s =
        ((takeWrites p (x + BitVec.ofNat 28 (4 * (k + xs.length))) ys
            (takeWrites p (x + BitVec.ofNat 28 (4 * k)) xs s).1).1,
         (takeWrites p (x + BitVec.ofNat 28 (4 * k)) xs s).2 ++
          (takeWrites p (x + BitVec.ofNat 28 (4 * (k + xs.length))) ys
            (takeWrites p (x + BitVec.ofNat 28 (4 * k)) xs s).1).2) := by
  induction xs with
  | nil => intro k s; rfl
  | cons d ds ih =>
    intro k s
    have e : k + 1 + ds.length = k + (d :: ds).length := by simp; omega
    simp only [List.cons_append, takeWrites, slot_addr_next]
    rw [ih (k + 1), e]

/-! ## The burst -/

/-- The words of a burst to a slot whose assembler is empty: the record is processed, and word 2 leaves
stamped. -/
theorem takeWrites_burst {a : AsmId} {slot : Nat} {w : Window} {s : State} (R : RingAt a slot w s)
    (hs : (s.asm.get a).stage = .empty) (hh : (s.asm.get a).handoff = none) (ws : List Word)
    (hl : ws.length = 16) :
    takeWrites .h (w.base + BitVec.ofNat 28 (64 * slot)) ws s =
      (processRecord a (burstRecord slot ws s) s, (ws.set 2 s.timer.f).map .store) := by
  match ws, hl with
  | [d0, d1, d2, d3, d4, d5, d6, d7, d8, d9, d10, d11, d12, d13, d14, d15], _ =>
    have hstart : startRecord a slot d0 s = newRecord a slot d0 s := by
      unfold startRecord startRest
      rw [hh]; dsimp only; rw [hs]
    have h0 : takeWrites .h (w.base + BitVec.ofNat 28 (64 * slot) + BitVec.ofNat 28 (4 * 0)) [d0] s =
        (newRecord a slot d0 s, [.store d0]) := by
      have hw := R.word 0 (by omega) d0
      rw [if_pos rfl, hstart] at hw
      simp only [takeWrites, hw]
    have R1 : RingAt a slot w (newRecord a slot d0 s) := R.of_path rfl rfl
    have hst : ((newRecord a slot d0 s).asm.get a).stage =
        .incomplete { slot := slot, words := some d0 :: List.replicate 15 none, arrival := s.timer.f } := by
      simp [newRecord]
    have h1 := takeWrites_collect [d1, d2, d3, d4, d5, d6, d7, d8, d9, d10, d11, d12, d13, d14] 1
      (newRecord a slot d0 s) _ R1 (by omega) (by simp) hst rfl
    generalize hq : (newRecord a slot d0 s).setAsm a
      { (newRecord a slot d0 s).asm.get a with
        stage := .incomplete (collectAll (newRecord a slot d0 s).timer.f
          { slot := slot, words := some d0 :: List.replicate 15 none, arrival := s.timer.f } 1
          [d1, d2, d3, d4, d5, d6, d7, d8, d9, d10, d11, d12, d13, d14]) } = q at h1
    have R2 : RingAt a slot w q := by rw [← hq]; exact R1.of_path rfl rfl
    have hf : (newRecord a slot d0 s).timer.f = s.timer.f := rfl
    have hqs : (q.asm.get a).stage = .incomplete
        { slot := slot, words := [some d0, some d1, some s.timer.f, some d3, some d4, some d5, some d6, some d7,
            some d8, some d9, some d10, some d11, some d12, some d13, some d14, none],
          arrival := s.timer.f } := by
      rw [← hq, hf]; simp [collectAll, PartialRec.collect]
    have hqh : q.asm.get a = { s.asm.get a with stage := (q.asm.get a).stage } := by
      rw [← hq]; simp [newRecord]
    have hqb : q.setAsm a { s.asm.get a with stage := .empty } = s := by
      rw [← hq]
      show { s with asm := _ } = s
      simp only [newRecord, State.setAsm, Assemblers.set_set]
      rw [← hs, Assemblers.set_get]
    have hqc : q.setAsm a (Assembler.mk .empty none (s.asm.get a).abandoned (s.asm.get a).stray) = s := by
      rw [← hh]; exact hqb
    have h15 : takeWrites .h (w.base + BitVec.ofNat 28 (64 * slot) + BitVec.ofNat 28 (4 * (1 + 14))) [d15] q =
        (completeRecord a
          { slot := slot, words := [some d0, some d1, some s.timer.f, some d3, some d4, some d5, some d6, some d7,
              some d8, some d9, some d10, some d11, some d12, some d13, some d14, none],
            arrival := s.timer.f } d15 q, [.store d15]) := by
      have hw := R2.word 15 (by omega) d15
      rw [if_neg (by omega), laterWord_complete d15 hqs] at hw
      simp only [takeWrites, show 1 + 14 = 15 from rfl, hw]
    have hc : completeRecord a
          { slot := slot, words := [some d0, some d1, some s.timer.f, some d3, some d4, some d5, some d6, some d7,
              some d8, some d9, some d10, some d11, some d12, some d13, some d14, none],
            arrival := s.timer.f } d15 q =
        processRecord a (burstRecord slot
          [d0, d1, d2, d3, d4, d5, d6, d7, d8, d9, d10, d11, d12, d13, d14, d15] s) s := by
      unfold completeRecord
      rw [hqh]
      simp only [hh, Option.isSome_none, Bool.false_eq_true, if_false]
      rw [hqc]
      rfl
    have e0 : w.base + BitVec.ofNat 28 (64 * slot) =
        w.base + BitVec.ofNat 28 (64 * slot) + BitVec.ofNat 28 (4 * 0) := by simp
    rw [e0]
    rw [show [d0, d1, d2, d3, d4, d5, d6, d7, d8, d9, d10, d11, d12, d13, d14, d15] =
      [d0] ++ ([d1, d2, d3, d4, d5, d6, d7, d8, d9, d10, d11, d12, d13, d14] ++ [d15]) from rfl]
    rw [takeWrites_append, h0]
    dsimp only [List.length_singleton, Nat.zero_add]
    rw [takeWrites_append, h1]
    dsimp only
    rw [show [d1, d2, d3, d4, d5, d6, d7, d8, d9, d10, d11, d12, d13, d14].length = 14 from rfl, h15, hc, hf]
    rfl

/-! ## What processing a record changes -/

/-- `t` is `s` but for the lanes, the shared units, the software override flag and the counter of open
orders: all that the processing of a record can change (R39). -/
structure Processing (s t : State) : Prop where
  pending : t.pending = s.pending
  timer : t.timer = s.timer
  path : t.path = s.path
  asm : t.asm = s.asm
  unit : t.unit = { s.unit with softOverride := t.unit.softOverride }

theorem Processing.refl (s : State) : Processing s s := ⟨rfl, rfl, rfl, rfl, rfl⟩

theorem Processing.trans {s t u : State} (h : Processing s t) (k : Processing t u) : Processing s u :=
  ⟨k.1.trans h.1, k.2.trans h.2, k.3.trans h.3, k.4.trans h.4, by
    have h5 := h.5; have k5 := k.5
    rw [h5] at k5; exact k5⟩

theorem SharedOnly.processing {s t : State} (h : SharedOnly s t) : Processing s t :=
  ⟨h.pending, h.timer, h.path, h.asm, by rw [h.unit]⟩

theorem runLane_processing (l : LaneId) (f : LaneCtx → Work → Work) (s : State) :
    Processing s (runLane l f s) := ⟨by simp, by simp, by simp, by simp, by simp⟩

theorem changeOverride_processing (cause : HoldCause) (b a : Bool) (s : State) :
    Processing s (changeOverride cause b a s) := by
  unfold changeOverride
  split
  · exact .refl s
  · dsimp only
    generalize (freshOrder allLanes s).1 = ls
    have h : Processing s (freshOrder allLanes s).2 := ⟨rfl, rfl, rfl, rfl, rfl⟩
    revert h
    generalize (freshOrder allLanes s).2 = t
    induction ls generalizing t with
    | nil => exact id
    | cons l ls ih => intro h; exact ih _ (h.trans (runLane_processing _ _ _))

theorem laneDirective_processing (k : DirectiveKind) (ws : List Word) (l : LaneId) (s : State) :
    Processing s (laneDirective k ws l s).state := by
  have hl : ∀ f, Processing s (acceptState (runLane l f s)).state := fun f => runLane_processing l f s
  have hr : ∀ n, Processing s (refuseWith n s).state := fun _ => .refl s
  have ho : ∀ on, Processing s (acceptOverride on s) := fun on =>
    (⟨rfl, rfl, rfl, rfl, rfl⟩ : Processing s { s with unit := { s.unit with softOverride := on } }).trans
      (changeOverride_processing _ _ _ _)
  cases k <;> unfold laneDirective <;> dsimp only
  case laneSet => split; exact hl _; exact hr _
  case penSet =>
    split
    · exact hr _
    · split
      · exact hr _
      · exact hl _
  case cue =>
    unfold directiveCue
    dsimp only
    split
    · exact hr _
    · split
      · exact hr _
      · split
        · exact hr _
        · exact hl _
  case uncue => exact hl _
  case link => split; exact hl _; exact hr _
  case override => exact ho _
  case flush => exact hl _
  case restore => split; exact hr _; exact hl _
  case snapshot => exact (handReport_shared _ s).processing
  case stop => exact .refl s

/-- R39: the processing of a record reaches the lanes, the shared units and the override flag only. -/
theorem processByBlock_processing (a : AsmId) (x : Rec) (s : State) : Processing s (processByBlock a x s).state := by
  cases a with
  | lane l =>
    refine Processing.trans ?_ (finishWork_shared l
      (processIngest (s.laneCtx l) x { lane := s.lanes.get l, out := [] }).1
      { s with freeIndex := s.freeIndex + 1 }).processing
    exact ⟨rfl, rfl, rfl, rfl, rfl⟩
  | command =>
    show Processing s (processDirective x s).state
    unfold processDirective
    split
    · exact .refl s
    · split
      · exact .refl s
      · rename_i k _
        have hd : ∀ k, Processing s
            (match directiveLane x.words s with
              | some l => laneDirective k x.words l s
              | none => refuseWith 1 s).state := by
          intro k
          split
          · exact laneDirective_processing k x.words _ s
          · exact .refl s
        cases k <;> unfold carryOut <;> dsimp only [acceptState] <;> first | exact hd _ | skip
        · exact (⟨rfl, rfl, rfl, rfl, rfl⟩ :
            Processing s { s with unit := { s.unit with softOverride := bitOf (wordAt x.words 3) 0 } }).trans
            (changeOverride_processing _ _ _ _)
        · exact .refl s

/-- R39: a processed record also changes its own assembler. -/
theorem processRecord_fields (a : AsmId) (x : Rec) (s : State) :
    (processRecord a x s).pending = s.pending ∧ (processRecord a x s).timer = s.timer ∧
    (processRecord a x s).path = s.path ∧
    (processRecord a x s).unit =
      { s.unit with softOverride := (processByBlock a x s).state.unit.softOverride } ∧
    (processRecord a x s).lanes = (processByBlock a x s).state.lanes ∧
    (processRecord a x s).report = (processByBlock a x s).state.report ∧
    (processRecord a x s).asm = s.asm.set a
      { s.asm.get a with
        handoff := some { record := x, disp := (processByBlock a x s).disp, isStop := (processByBlock a x s).isStop } } := by
  have h := processByBlock_processing a x s
  unfold processRecord placeHandoff
  refine ⟨?_, ?_, ?_, ?_, ?_, ?_, ?_⟩ <;> simp only [enterRequest_pending, enterRequest_timer, enterRequest_path,
    enterRequest_unit, enterRequest_lanes, enterRequest_report, enterRequest_asm, State.setAsm_pending,
    State.setAsm_timer, State.setAsm_path, State.setAsm_unit, State.setAsm_lanes, State.setAsm_report,
    State.setAsm_asm]
  · exact h.pending
  · exact h.timer
  · exact h.path
  · exact h.unit
  · rw [h.asm]

/-! ## The command -/

/-- A window that `findWindow` finds satisfies the test. -/
theorem findWindow_some {ws : List (Option Window)} {p : Window → Bool} {w : Window}
    (h : findWindow ws p = some w) : p w = true := by
  unfold findWindow at h
  obtain ⟨x, -, hx⟩ := List.exists_of_findSome?_eq_some h
  cases x with
  | none => cases hx
  | some v =>
    dsimp only at hx
    split at hx
    · rename_i hv; injection hx with hx; exact hx ▸ hv
    · cases hx

/-- A ring's window is its assembler's. -/
theorem ringWindow_assembler {a : AsmId} {w : Window} {s : State} (h : s.ringWindow a = some w) :
    w.assembler = a ∧ (w.kind = .ingest ∨ w.kind = .command) := by
  cases a with
  | lane l =>
    have := findWindow_some h
    simp at this
    exact ⟨by simp [Window.assembler, this.2], .inl this.1⟩
  | command =>
    have := findWindow_some h
    simp at this
    exact ⟨by simp [Window.assembler, this.2], .inr this.1⟩

theorem Ready.ringAt {a : AsmId} {slot : Nat} {w : Window} {s : State} (R : Ready a slot w s) :
    RingAt a slot w s :=
  ⟨(ringWindow_assembler R.window).1, (ringWindow_assembler R.window).2, R.slotIn, R.top, R.alone⟩

/-- STOPPING alone can end (R169). -/
theorem finishStopping_of_ne {s : State} (h : s.unit.partState ≠ .stopping) : finishStopping s = s := by
  unfold finishStopping; simp [h]

/-- R27: a BUSY Port M is not granted. -/
theorem arbitrate_busy {s : State} (h : s.path.portM.isSome = true) : arbitrate s = s := by
  unfold arbitrate; simp [h]

/-- The event of a command ends with nothing more to do while Port M is BUSY and the part RUNNING. -/
theorem settle_busy {s : State} (h : s.path.portM.isSome = true) (k : s.unit.partState ≠ .stopping) :
    settle s = s := by
  unfold settle
  rw [finishStopping_of_ne k, arbitrate_busy h, finishStopping_of_ne k]

/-- R27: Port H alone waits for a FREE Port M. -/
theorem arbitrate_portH {s : State} {x : Access} (free : s.path.portM = none) (h : s.path.h.state = .waiting x)
    (v : s.path.v.waiting? = none) (e : s.engine.requests = []) :
    arbitrate s = grantPort .h x (s.setServed .portH) := by
  have hf : s.frontEntry = none := by unfold State.frontEntry; rw [e]; rfl
  have hw : s.path.h.waiting? = some x := by unfold PortUnit.waiting?; rw [h]
  unfold arbitrate arbitrateTurn
  rw [free, v, hf, hw]
  simp

/-- The host's record, written in one burst to a ring that is ready for it, is processed at once. -/
theorem hostWrites_ready {a : AsmId} {slot : Nat} {w : Window} {s : State} (R : Ready a slot w s)
    {ws : List Word} (hl : ws.length = 16) : hostWrites a slot ws s = afterBurst a slot w ws s := by
  have RA := R.ringAt
  have hne : s.unit.partState ≠ .stopping := by rw [R.running]; decide
  let x : Access := { addr := w.base + BitVec.ofNat 28 (64 * slot), xfer := .write ws }
  have hx : hostWrites a slot ws s = receive .h x s := by
    unfold hostWrites ringAccess; rw [R.window]; simp [R.slotIn, x]
  have hneeds : accessNeedsMemory .h x s = true := by
    unfold accessNeedsMemory
    rw [List.any_eq_true]
    refine ⟨0, by simp [x, Transfer.count, hl], ?_⟩
    have h0 := R.alone _ (slot_covers 0 (by omega) R.slotIn R.top)
    have : s.writeRefused .h (wordAddr x.addr 0) = false := by
      unfold State.writeRefused wordAddr
      rw [show x.addr + BitVec.ofNat 28 (4 * 0) =
        w.base + BitVec.ofNat 28 (64 * slot) + BitVec.ofNat 28 (4 * 0) from rfl, h0]
      rcases RA.kind with k | k <;> simp [k]
    simp [State.needsMemory, writes, x] at this ⊢
    exact this
  have hg : ∀ s2 : State, s2 = s.setPort .h { s.portUnit .h with state := .waiting x } →
      grantPort .h x (s2.setServed .portH) = afterBurst a slot w ws s := by
    rintro s2 rfl
    have hs1 : ((((s.setPort .h { s.portUnit .h with state := .waiting x }).setServed .portH).setPort .h
        { ((s.setPort .h { s.portUnit .h with state := .waiting x }).setServed .portH).portUnit .h with
          state := .inFlight }).setPortM
          (some { owner := .port .h, addr := x.addr, isWrite := writes x.xfer, words := [], orphan := false })) =
        grantedBurst w slot s := rfl
    unfold grantPort
    dsimp only
    rw [hs1]
    have hst : startWritten .h x (grantedBurst w slot s) = false := by
      unfold startWritten
      rw [show (grantedBurst w slot s).unit.partState = .running from R.running]
    have ht := takeWrites_burst (s := grantedBurst w slot s) (RA.of_path rfl rfl) R.stage R.handoff ws hl
    unfold takeAccess
    rw [hst]
    dsimp only [x]
    rw [ht]
    rfl
  rw [hx]
  unfold receive
  rw [show (s.portUnit .h).state = .idle from R.idle, if_pos rfl, hneeds, if_pos rfl]
  generalize hs2 : s.setPort .h { s.portUnit .h with state := .waiting x } = s2
  have g := hg s2 hs2.symm
  have u : s2.unit.partState ≠ .stopping := by rw [← hs2]; exact hne
  have e : arbitrate s2 = grantPort .h x (s2.setServed .portH) :=
    arbitrate_portH (by rw [← hs2]; exact R.free) (by rw [← hs2]; rfl) (by rw [← hs2]; exact R.noV)
      (by rw [← hs2]; exact R.noEntry)
  unfold settle
  rw [finishStopping_of_ne u, e, g]
  apply finishStopping_of_ne
  unfold afterBurst
  rw [State.setPortM_unit, (processRecord_fields _ _ _).2.2.2.1]
  exact hne

/-- The lanes, the Report Unit and the unit flags after a burst are those of the record's processing. -/
theorem afterBurst_fields (a : AsmId) (slot : Nat) (w : Window) (ws : List Word) (s : State) :
    (afterBurst a slot w ws s).lanes =
      (processByBlock a (burstRecord slot ws s) (grantedBurst w slot s)).state.lanes ∧
    (afterBurst a slot w ws s).report =
      (processByBlock a (burstRecord slot ws s) (grantedBurst w slot s)).state.report ∧
    (afterBurst a slot w ws s).timer = s.timer ∧
    (afterBurst a slot w ws s).pending = s.pending ∧
    (afterBurst a slot w ws s).unit =
      { s.unit with softOverride :=
          (processByBlock a (burstRecord slot ws s) (grantedBurst w slot s)).state.unit.softOverride } := by
  obtain ⟨h1, h2, -, h4, h5, h6, -⟩ := processRecord_fields a (burstRecord slot ws s) (grantedBurst w slot s)
  exact ⟨h5, h6, h2, h1, h4⟩

end Sys2Proof.Machine
end

