-- ==== Sys2Proof/Laws/Formats.lean ====
section
/-!
SUPPORT. What the part reads back from the records of chapter 12: each named field is the operand the host put
there, whatever the stamp in word 2.
-/
set_option linter.unusedSimpArgs false

namespace Sys2Proof.Machine

/-! ## Fields of a word -/

theorem mkWord_toNat {fs : List Nat} (h : fs.sum < 2 ^ 32) : (mkWord fs).toNat = fs.sum := by
  unfold mkWord; rw [BitVec.toNat_ofNat]; exact Nat.mod_eq_of_lt h

theorem field_mkWord {fs : List Nat} (lo n : Nat) (h : fs.sum < 2 ^ 32) :
    field (mkWord fs) lo n = fs.sum / 2 ^ lo % 2 ^ n := by unfold field; rw [mkWord_toNat h]

theorem place_eq (x lo n : Nat) (h : 2 ^ lo = n) : place x lo = n * x := by subst h; exact Nat.mul_comm _ _

/-- A word's fields as a sum of multiples. -/
theorem place_8 (x : Nat) : place x 8 = 256 * x := place_eq x 8 _ (by norm_num)
theorem place_9 (x : Nat) : place x 9 = 512 * x := place_eq x 9 _ (by norm_num)
theorem place_10 (x : Nat) : place x 10 = 1024 * x := place_eq x 10 _ (by norm_num)
theorem place_16 (x : Nat) : place x 16 = 65536 * x := place_eq x 16 _ (by norm_num)
theorem place_24 (x : Nat) : place x 24 = 16777216 * x := place_eq x 24 _ (by norm_num)

theorem lowHalf_mkWord (h : Half) : lowHalf (mkWord [h.toNat]) = h := by
  have := h.isLt
  unfold lowHalf
  rw [mkWord_toNat (by simp; omega)]
  simp

theorem lowHalf_pair (a b : Half) : lowHalf (mkWord [a.toNat, place b.toNat 16]) = a := by
  have := a.isLt; have := b.isLt
  apply BitVec.eq_of_toNat_eq
  unfold lowHalf place
  rw [mkWord_toNat (by simp; omega), BitVec.toNat_ofNat]
  simp
  omega

theorem highHalf_pair (a b : Half) : highHalf (mkWord [a.toNat, place b.toNat 16]) = b := by
  have := a.isLt; have := b.isLt
  apply BitVec.eq_of_toNat_eq
  unfold highHalf place
  rw [mkWord_toNat (by simp; omega), BitVec.toNat_ofNat]
  simp
  omega

theorem ingestKindOf_code (k : IngestKind) : ingestKindOf k.code = some k := by cases k <;> rfl

theorem directiveKindOf_code (k : DirectiveKind) : directiveKindOf k.code = some k := by cases k <;> rfl

theorem bit_le (b : Bool) : bit b ≤ 1 := by cases b <;> decide

/-- The kind field of a command record. -/
theorem directive_kindField (k : DirectiveKind) : field (mkWord [k.code]) 0 8 = k.code := by cases k <;> rfl

/-- The lane field of word 1. -/
theorem laneWord_field (lane : BitVec 8) : field (laneWord lane) 0 8 = lane.toNat := by
  have := lane.isLt
  unfold laneWord
  rw [field_mkWord _ _ (by simp; omega)]
  simp only [List.sum_cons, List.sum_nil]; omega

/-- The lane field of word 1 with a slot. -/
theorem slotWord_lane (lane : BitVec 8) (b : Bool) :
    field (mkWord [lane.toNat, place (bit b) 8]) 0 8 = lane.toNat := by
  have := lane.isLt; have := bit_le b
  rw [field_mkWord _ _ (by simp only [place_8, place_9, place_10, place_16, place_24, List.sum_cons, List.sum_nil]; omega)]
  simp only [place_8, place_9, place_10, place_16, place_24, List.sum_cons, List.sum_nil]; omega

/-- The slot bit of word 1. -/
theorem slotWord_slot (lane : BitVec 8) (b : Bool) : bitOf (mkWord [lane.toNat, place (bit b) 8]) 8 = b := by
  have := lane.isLt
  unfold bitOf
  rw [field_mkWord _ _ (by have := bit_le b; simp only [place_8, place_9, place_10, place_16, place_24, List.sum_cons, List.sum_nil]; omega)]
  cases b <;> simp only [bit, place_8, place_9, place_10, place_16, place_24, List.sum_cons, List.sum_nil] <;> simp <;> omega

/-- The lane field of word 1 of a PEN-SET. -/
theorem penSetWord_lane (lane : BitVec 8) (b f : Bool) :
    field (mkWord [lane.toNat, place (bit b) 8, place (bit f) 9]) 0 8 = lane.toNat := by
  have := lane.isLt; have := bit_le b; have := bit_le f
  rw [field_mkWord _ _ (by simp only [place_8, place_9, place_10, place_16, place_24, List.sum_cons, List.sum_nil]; omega)]
  simp only [place_8, place_9, place_10, place_16, place_24, List.sum_cons, List.sum_nil]; omega

/-- The slot bit of word 1 of a PEN-SET. -/
theorem penSetWord_slot (lane : BitVec 8) (b f : Bool) :
    bitOf (mkWord [lane.toNat, place (bit b) 8, place (bit f) 9]) 8 = b := by
  have := lane.isLt
  unfold bitOf
  rw [field_mkWord _ _ (by have := bit_le b; have := bit_le f; simp only [place_8, place_9, place_10, place_16, place_24, List.sum_cons, List.sum_nil]; omega)]
  cases b <;> cases f <;> simp only [bit, place_8, place_9, place_10, place_16, place_24, List.sum_cons, List.sum_nil] <;> simp <;> omega

/-- The role bit of word 1 of a PEN-SET. -/
theorem penSetWord_role (lane : BitVec 8) (b f : Bool) :
    bitOf (mkWord [lane.toNat, place (bit b) 8, place (bit f) 9]) 9 = f := by
  have := lane.isLt
  unfold bitOf
  rw [field_mkWord _ _ (by have := bit_le b; have := bit_le f; simp only [place_8, place_9, place_10, place_16, place_24, List.sum_cons, List.sum_nil]; omega)]
  cases b <;> cases f <;> simp only [bit, place_8, place_9, place_10, place_16, place_24, List.sum_cons, List.sum_nil] <;> simp <;> omega

/-- The start index and the count of a CUE. -/
theorem cueWord_fields (first : BitVec 12) (count : BitVec 13) :
    field (mkWord [first.toNat, place count.toNat 16]) 0 12 = first.toNat ∧
    field (mkWord [first.toNat, place count.toNat 16]) 16 13 = count.toNat := by
  have := first.isLt; have := count.isLt
  constructor <;> rw [field_mkWord _ _ (by simp only [place_8, place_9, place_10, place_16, place_24, List.sum_cons, List.sum_nil]; omega)] <;> simp only [place_8, place_9, place_10, place_16, place_24, List.sum_cons, List.sum_nil] <;> omega

/-- The mode of a LINK. -/
theorem linkWord_field (mode : BitVec 2) : field (mkWord [mode.toNat]) 0 2 = mode.toNat := by
  have := mode.isLt
  rw [field_mkWord _ _ (by simp; omega)]
  simp only [List.sum_cons, List.sum_nil]; omega

/-- The value of an OVERRIDE. -/
theorem overrideWord_bit (on : Bool) : bitOf (mkWord [bit on]) 0 = on := by cases on <;> rfl

/-! ## Check value -/

/-- R43: the stamp is excluded from the check. -/
theorem recordCheck_stamp (ws : List Word) (f : Word) : recordCheck (ws.set 2 f) = recordCheck ws := by
  unfold recordCheck
  rw [List.take_set]
  simp

/-- The check of a burst's record. -/
theorem checkPasses_burst (slot : Nat) (ws : List Word) (s : State) :
    checkPasses (burstRecord slot ws s) = (recordCheck ws == lowHalf (wordAt ws 15)) := by
  unfold checkPasses burstRecord
  rw [recordCheck_stamp]
  simp [wordAt, List.getD_eq_getElem?_getD, List.getElem?_set]

/-- Words other than word 2 of a burst's record are as written. -/
theorem burst_word (slot : Nat) (ws : List Word) (s : State) {k : Nat} (h : k ≠ 2) :
    wordAt (burstRecord slot ws s).words k = wordAt ws k := by
  unfold burstRecord wordAt
  simp [List.getD_eq_getElem?_getD, List.getElem?_set, h.symm]

/-- R43: the check reads the first fifteen words only. -/
theorem recordCheck_take (ws : List Word) : recordCheck (ws.take 15) = recordCheck ws := by
  unfold recordCheck
  rw [List.take_take, Nat.min_self]

/-- R43: the check value a record carries does not enter its check. -/
theorem recordCheck_ingest (k : IngestKind) (r : IngestFields) (c : Half) (h : r.text.length = 10) :
    recordCheck (ingestWords k { r with check := c }) = recordCheck (ingestWords k r) := by
  rw [← recordCheck_take, ← recordCheck_take (ingestWords k r)]
  unfold ingestWords
  simp [List.take_append, h]

theorem recordCheck_directive (k : DirectiveKind) (w1 w3 : Word) (xs : List Word) (c d : Half)
    (h : xs.length ≤ 10) :
    recordCheck (directiveWords k w1 w3 xs c) = recordCheck (directiveWords k w1 w3 xs d) := by
  rw [← recordCheck_take, ← recordCheck_take (directiveWords k w1 w3 xs d)]
  unfold directiveWords
  have e : ([mkWord [k.code], w1, 0, w3] ++ (xs ++ List.replicate (10 - xs.length) 0)).length = 14 := by
    simp; omega
  revert e
  generalize [mkWord [k.code], w1, 0, w3] ++ (xs ++ List.replicate (10 - xs.length) 0) = pre
  intro e
  rw [List.take_append, List.take_append, e]
  rfl

/-- Every command record has a right check value. -/
theorem directive_check (k : DirectiveKind) (w1 w3 : Word) (xs : List Word) (h : xs.length ≤ 10) :
    ∃ c, c = recordCheck (directiveWords k w1 w3 xs c) :=
  ⟨recordCheck (directiveWords k w1 w3 xs 0), recordCheck_directive k w1 w3 xs 0 _ h⟩

/-! ## Command records -/

theorem directiveWords_length {k : DirectiveKind} {w1 w3 : Word} {xs : List Word} {check : Half}
    (h : xs.length ≤ 10) : (directiveWords k w1 w3 xs check).length = 16 := by
  unfold directiveWords; simp; omega

theorem directiveWords_0 (k : DirectiveKind) (w1 w3 : Word) (xs : List Word) (check : Half) :
    wordAt (directiveWords k w1 w3 xs check) 0 = mkWord [k.code] := rfl

theorem directiveWords_1 (k : DirectiveKind) (w1 w3 : Word) (xs : List Word) (check : Half) :
    wordAt (directiveWords k w1 w3 xs check) 1 = w1 := rfl

theorem directiveWords_3 (k : DirectiveKind) (w1 w3 : Word) (xs : List Word) (check : Half) :
    wordAt (directiveWords k w1 w3 xs check) 3 = w3 := rfl

theorem directiveWords_15 (k : DirectiveKind) (w1 w3 : Word) {xs : List Word} (check : Half)
    (h : xs.length ≤ 10) : wordAt (directiveWords k w1 w3 xs check) 15 = mkWord [check.toNat] := by
  have e : ([mkWord [k.code], w1, 0, w3] ++ (xs ++ List.replicate (10 - xs.length) 0)).length = 14 := by
    simp; omega
  unfold wordAt directiveWords
  rw [List.getD_append_right _ _ _ _ (by rw [e]; omega), e]
  rfl

/-- R46: a command record with its right check value is handed to the Command Unit. -/
theorem directive_processed {k : DirectiveKind} {w1 w3 : Word} {xs : List Word} {check : Half} (slot : Nat)
    (s t : State) (h : xs.length ≤ 10) (hc : recordCheck (directiveWords k w1 w3 xs check) = check) :
    processByBlock .command (burstRecord slot (directiveWords k w1 w3 xs check) s) t =
      carryOut k (burstRecord slot (directiveWords k w1 w3 xs check) s).words t := by
  show processDirective _ t = _
  unfold processDirective
  rw [checkPasses_burst, directiveWords_15 k w1 w3 check h, lowHalf_mkWord, hc,
    burst_word slot _ s (by decide), directiveWords_0, directive_kindField, directiveKindOf_code]
  simp

/-- R46: one whose check value is wrong receives BAD-CHECK and changes nothing. -/
theorem directive_badCheck {k : DirectiveKind} {w1 w3 : Word} {xs : List Word} {check : Half} (slot : Nat)
    (s t : State) (h : xs.length ≤ 10) (hc : recordCheck (directiveWords k w1 w3 xs check) ≠ check) :
    processByBlock .command (burstRecord slot (directiveWords k w1 w3 xs check) s) t =
      { state := t, disp := disp .badCheck 0 false, isStop := false } := by
  show processDirective _ t = _
  unfold processDirective
  rw [checkPasses_burst, directiveWords_15 k w1 w3 check h, lowHalf_mkWord]
  simp [hc]

/-! ## LANE-SET -/

theorem marker_fields (w : Word) : markerOf w = (lowHalf w, highHalf w) := rfl

/-- Table 12-2: a LANE-SET is read as it was written. -/
theorem readLaneSet_words (slot : Nat) (enable : Bool) (p : LaneSetFields) (s : State) :
    readLaneSet (burstRecord slot (laneSetWords enable p) s).words =
      { enable := enable, d := p.d.toNat, lmax := p.lmax.toNat, initial := p.initial.toNat, s := p.s.toNat,
        g := p.g.toNat, q := p.q.toNat, takeWindow := p.takeWindow.toNat, c := p.c.toNat, r := p.r.toNat,
        w := p.w.toNat, stale := p.stale.toNat, corrMarker := markerOf p.corrMarker,
        spkMarker := markerOf p.spkMarker } := by
  have b1 : bitOf (mkWord [p.lane.toNat, place (bit enable) 16]) 16 = enable := by
    have := p.lane.isLt
    unfold bitOf
    rw [field_mkWord _ _ (by have := bit_le enable; simp only [place_8, place_9, place_10, place_16, place_24, List.sum_cons, List.sum_nil]; omega)]
    cases enable <;> simp only [bit, place_8, place_9, place_10, place_16, place_24, List.sum_cons, List.sum_nil] <;> simp <;> omega
  have h3 : field (mkWord [p.d.toNat, place p.lmax.toNat 16]) 0 10 = p.d.toNat ∧
      field (mkWord [p.d.toNat, place p.lmax.toNat 16]) 16 10 = p.lmax.toNat := by
    have := p.d.isLt; have := p.lmax.isLt
    constructor <;> rw [field_mkWord _ _ (by simp only [place_8, place_9, place_10, place_16, place_24, List.sum_cons, List.sum_nil]; omega)] <;> simp only [place_8, place_9, place_10, place_16, place_24, List.sum_cons, List.sum_nil] <;> omega
  have h4 : field (mkWord [p.initial.toNat, place p.s.toNat 16, place p.g.toNat 24]) 0 10 = p.initial.toNat ∧
      field (mkWord [p.initial.toNat, place p.s.toNat 16, place p.g.toNat 24]) 16 4 = p.s.toNat ∧
      field (mkWord [p.initial.toNat, place p.s.toNat 16, place p.g.toNat 24]) 24 8 = p.g.toNat := by
    have := p.initial.isLt; have := p.s.isLt; have := p.g.isLt
    refine ⟨?_, ?_, ?_⟩ <;> rw [field_mkWord _ _ (by simp only [place_8, place_9, place_10, place_16, place_24, List.sum_cons, List.sum_nil]; omega)] <;> simp only [place_8, place_9, place_10, place_16, place_24, List.sum_cons, List.sum_nil] <;> omega
  have h5 : field (mkWord [p.q.toNat, place p.takeWindow.toNat 16]) 0 12 = p.q.toNat ∧
      field (mkWord [p.q.toNat, place p.takeWindow.toNat 16]) 16 10 = p.takeWindow.toNat := by
    have := p.q.isLt; have := p.takeWindow.isLt
    constructor <;> rw [field_mkWord _ _ (by simp only [place_8, place_9, place_10, place_16, place_24, List.sum_cons, List.sum_nil]; omega)] <;> simp only [place_8, place_9, place_10, place_16, place_24, List.sum_cons, List.sum_nil] <;> omega
  have h6 : field (mkWord [p.c.toNat, place p.r.toNat 8, place p.w.toNat 16]) 0 4 = p.c.toNat ∧
      field (mkWord [p.c.toNat, place p.r.toNat 8, place p.w.toNat 16]) 8 3 = p.r.toNat ∧
      field (mkWord [p.c.toNat, place p.r.toNat 8, place p.w.toNat 16]) 16 6 = p.w.toNat := by
    have := p.c.isLt; have := p.r.isLt; have := p.w.isLt
    refine ⟨?_, ?_, ?_⟩ <;> rw [field_mkWord _ _ (by simp only [place_8, place_9, place_10, place_16, place_24, List.sum_cons, List.sum_nil]; omega)] <;> simp only [place_8, place_9, place_10, place_16, place_24, List.sum_cons, List.sum_nil] <;> omega
  have h7 : field (mkWord [p.stale.toNat]) 0 10 = p.stale.toNat := by
    have := p.stale.isLt
    rw [field_mkWord _ _ (by simp; omega)]; simp only [List.sum_cons, List.sum_nil]; omega
  have e : (burstRecord slot (laneSetWords enable p) s).words =
      [mkWord [DirectiveKind.laneSet.code], mkWord [p.lane.toNat, place (bit enable) 16], s.timer.f,
       mkWord [p.d.toNat, place p.lmax.toNat 16],
       mkWord [p.initial.toNat, place p.s.toNat 16, place p.g.toNat 24],
       mkWord [p.q.toNat, place p.takeWindow.toNat 16],
       mkWord [p.c.toNat, place p.r.toNat 8, place p.w.toNat 16], mkWord [p.stale.toNat], p.corrMarker,
       p.spkMarker, 0, 0, 0, 0, 0, mkWord [p.check.toNat]] := rfl
  rw [e]
  simp only [readLaneSet, wordAt, List.getD_cons_succ, List.getD_cons_zero, b1, h3, h4, h5, h6, h7]

/-! ## Ingest records -/

theorem ingestWords_length {k : IngestKind} {r : IngestFields} (h : r.text.length = 10) :
    (ingestWords k r).length = 16 := by unfold ingestWords; simp [h]

/-- Word 0 of an ingest record as a number. -/
theorem ingestWord0_toNat (k : IngestKind) (r : IngestFields) :
    (mkWord [k.code, place (bit r.newline) 8, place (bit r.speaker) 9, place (bit r.gap) 10,
      place r.length.toNat 16, place r.argument.toNat 24]).toNat =
    k.code + 256 * bit r.newline + 512 * bit r.speaker + 1024 * bit r.gap + 65536 * r.length.toNat +
      16777216 * r.argument.toNat := by
  have h1 := r.length.isLt; have h2 := r.argument.isLt
  have h3 := bit_le r.newline; have h4 := bit_le r.speaker; have h5 := bit_le r.gap
  have h6 : k.code ≤ 5 := by cases k <;> decide
  rw [mkWord_toNat (by simp only [place_8, place_9, place_10, place_16, place_24, List.sum_cons, List.sum_nil]; omega)]
  simp only [place_8, place_9, place_10, place_16, place_24, List.sum_cons, List.sum_nil]; omega

theorem bit_eq (b : Bool) : (bit b == 1) = b := by cases b <;> rfl

/-- Table 12-1: an ingest record is read as it was written. -/
theorem readIngest_words (slot : Nat) (k : IngestKind) (r : IngestFields) (s : State)
    (h : r.text.length = 10) :
    readIngest (burstRecord slot (ingestWords k r) s) =
      { kind := some k, newline := r.newline, speaker := r.speaker, gap := r.gap, length := r.length.toNat,
        argument := r.argument.toNat, pen := r.pen, seq := r.seq, chars := charsOf r.text,
        arrival := s.timer.f } := by
  have e0 := ingestWord0_toNat k r
  have h1 := r.length.isLt; have h2 := r.argument.isLt
  have h3 := bit_le r.newline; have h4 := bit_le r.speaker; have h5 := bit_le r.gap
  have h6 : k.code ≤ 5 := by cases k <;> decide
  have w0 : wordAt (burstRecord slot (ingestWords k r) s).words 0 =
      mkWord [k.code, place (bit r.newline) 8, place (bit r.speaker) 9, place (bit r.gap) 10,
        place r.length.toNat 16, place r.argument.toNat 24] := burst_word slot _ s (by decide)
  have w1 : wordAt (burstRecord slot (ingestWords k r) s).words 1 = mkWord [r.pen.toNat, place r.seq.toNat 16] :=
    burst_word slot _ s (by decide)
  have wt : ((burstRecord slot (ingestWords k r) s).words.drop 4).take 10 = r.text := by
    unfold burstRecord ingestWords
    simp [h]
  unfold readIngest
  rw [wt, w0, w1, lowHalf_pair, highHalf_pair]
  unfold bitOf field
  dsimp only
  rw [e0]
  rw [show (k.code + 256 * bit r.newline + 512 * bit r.speaker + 1024 * bit r.gap + 65536 * r.length.toNat +
      16777216 * r.argument.toNat) / 2 ^ 0 % 2 ^ 8 = k.code by omega,
    show (k.code + 256 * bit r.newline + 512 * bit r.speaker + 1024 * bit r.gap + 65536 * r.length.toNat +
      16777216 * r.argument.toNat) / 2 ^ 8 % 2 ^ 1 = bit r.newline by omega,
    show (k.code + 256 * bit r.newline + 512 * bit r.speaker + 1024 * bit r.gap + 65536 * r.length.toNat +
      16777216 * r.argument.toNat) / 2 ^ 9 % 2 ^ 1 = bit r.speaker by omega,
    show (k.code + 256 * bit r.newline + 512 * bit r.speaker + 1024 * bit r.gap + 65536 * r.length.toNat +
      16777216 * r.argument.toNat) / 2 ^ 10 % 2 ^ 1 = bit r.gap by omega,
    show (k.code + 256 * bit r.newline + 512 * bit r.speaker + 1024 * bit r.gap + 65536 * r.length.toNat +
      16777216 * r.argument.toNat) / 2 ^ 16 % 2 ^ 5 = r.length.toNat by omega,
    show (k.code + 256 * bit r.newline + 512 * bit r.speaker + 1024 * bit r.gap + 65536 * r.length.toNat +
      16777216 * r.argument.toNat) / 2 ^ 24 % 2 ^ 4 = r.argument.toNat by omega]
  rw [ingestKindOf_code, bit_eq, bit_eq, bit_eq]
  rfl

/-- R43: an ingest record passes its check when it carries the right value. -/
theorem ingest_checkPasses (slot : Nat) (k : IngestKind) (r : IngestFields) (s : State)
    (h : r.text.length = 10) :
    checkPasses (burstRecord slot (ingestWords k r) s) = (recordCheck (ingestWords k r) == r.check) := by
  rw [checkPasses_burst]
  have e : wordAt (ingestWords k r) 15 = mkWord [r.check.toNat] := by
    unfold wordAt ingestWords
    rw [List.getD_append_right _ _ _ _ (by simp [h])]
    simp [h]
  rw [e, lowHalf_mkWord]

/-! ## The empty packet -/

/-- 12.3: the empty packet after a reset has words 0 to 14 all 0. -/
theorem packet_reset_body : Packet.reset.body = List.replicate 15 0 := by decide +kernel

/-- 12.3: it carries the check value of those fifteen zero words. -/
theorem packet_reset_check : Packet.reset.check = checkWords (List.replicate 15 0) := by decide +kernel

end Sys2Proof.Machine
end

