-- ==== Sys2Proof/Laws/Records.lean ====
section
/-!
SUPPORT. What a record command leaves, said once: the burst finds the part ready, is granted, and its record is
processed; a lane's processing and a directive's are read off from there.
-/
namespace Sys2Proof.Machine

/-! ## No write-back is asked for by the processing of a record -/

/-- The engine's list holds no disposition write-back. -/
def NoWriteBack (s : State) : Prop := ∀ q ∈ s.engine.requests, ∀ a, q.requester ≠ .writeBack a

theorem NoWriteBack.of_engine {s t : State} (h : NoWriteBack s) (e : t.engine = s.engine) : NoWriteBack t := by
  unfold NoWriteBack; rw [e]; exact h

theorem NoWriteBack.enter {s : State} (h : NoWriteBack s) {q : Request} (hq : ∀ a, q.requester ≠ .writeBack a) :
    NoWriteBack (enterRequest q s) := by
  unfold enterRequest
  split
  · exact h
  · intro r hr
    rcases List.mem_append.1 hr with hr | hr
    · exact h r hr
    · rw [List.mem_singleton.1 hr]; exact hq

theorem NoWriteBack.writerBegin {s : State} (h : NoWriteBack s) : NoWriteBack (writerBegin s) := by
  unfold Machine.writerBegin
  split
  · dsimp only
    unfold enterRecord
    split
    · exact h.of_engine rfl
    · refine NoWriteBack.enter ?_ (fun _ => by simp)
      exact h.of_engine rfl
  · exact h

theorem NoWriteBack.hand {s : State} (h : NoWriteBack s) (r : Report) : NoWriteBack (handReport r s) := by
  unfold handReport
  split
  · split
    · refine NoWriteBack.writerBegin ?_
      exact h.of_engine rfl
    · exact h.of_engine rfl
  · exact h

theorem NoWriteBack.finish {l : LaneId} (w : Work) {s : State} (h : NoWriteBack s) :
    NoWriteBack (finishWork l w s) := by
  unfold finishWork
  have h1 : NoWriteBack (s.setLane l w.lane) := h.of_engine rfl
  revert h1
  generalize s.setLane l w.lane = t
  induction w.out generalizing t with
  | nil => exact id
  | cons e es ih =>
    intro h1
    refine ih _ ?_
    cases e with
    | report r => exact h1.hand r
    | burst a n => exact h1.enter (fun _ => by simp)

theorem NoWriteBack.runLane {s : State} (h : NoWriteBack s) (l : LaneId) (f : LaneCtx → Work → Work) :
    NoWriteBack (runLane l f s) := NoWriteBack.finish _ (h.of_engine rfl)

theorem NoWriteBack.changeOverride {s : State} (h : NoWriteBack s) (cause : HoldCause) (b a : Bool) :
    NoWriteBack (changeOverride cause b a s) := by
  unfold Machine.changeOverride
  split
  · exact h
  · dsimp only
    generalize (freshOrder allLanes s).1 = ls
    have h1 : NoWriteBack (freshOrder allLanes s).2 := h.of_engine rfl
    revert h1
    generalize (freshOrder allLanes s).2 = t
    induction ls generalizing t with
    | nil => exact id
    | cons l ls ih => intro h1; exact ih _ (h1.runLane _ _)

theorem NoWriteBack.laneDirective {s : State} (h : NoWriteBack s) (k : DirectiveKind) (ws : List Word)
    (l : LaneId) : NoWriteBack (laneDirective k ws l s).state := by
  have hl : ∀ f, NoWriteBack (acceptState (Machine.runLane l f s)).state := fun f => h.runLane l f
  have hr : ∀ n, NoWriteBack (refuseWith n s).state := fun _ => h
  cases k <;> unfold Machine.laneDirective <;> dsimp only
  case laneSet => split; exact hl _; exact hr _
  case penSet =>
    split
    · exact hr _
    · split
      · exact hr _
      · exact hl _
  case cue =>
    unfold directiveCue
    dsimp only
    split
    · exact hr _
    · split
      · exact hr _
      · split
        · exact hr _
        · exact hl _
  case uncue => exact hl _
  case link => split; exact hl _; exact hr _
  case override =>
    refine NoWriteBack.changeOverride ?_ _ _ _
    exact h.of_engine rfl
  case flush => exact hl _
  case restore => split; exact hr _; exact hl _
  case snapshot => exact h.hand _
  case stop => exact h

theorem NoWriteBack.process {s : State} (h : NoWriteBack s) (a : AsmId) (x : Rec) :
    NoWriteBack (processByBlock a x s).state := by
  cases a with
  | lane l => exact NoWriteBack.finish _ (h.of_engine rfl)
  | command =>
    show NoWriteBack (processDirective x s).state
    unfold processDirective
    split
    · exact h
    · split
      · exact h
      · rename_i k _
        have hd : ∀ k, NoWriteBack
            (match directiveLane x.words s with
              | some l => Machine.laneDirective k x.words l s
              | none => refuseWith 1 s).state := by
          intro k
          split
          · exact h.laneDirective k x.words _
          · exact h
        cases k <;> unfold carryOut <;> dsimp only [acceptState] <;> first | exact hd _ | skip
        · refine NoWriteBack.changeOverride ?_ _ _ _
          exact h.of_engine rfl
        · exact h

/-! ## The record commands -/

/-- A record command is the host's burst. -/
theorem effect_record {i : Instr} {a : AsmId} {slot : Nat} {ws : List Word}
    (h : recordOf i = some (a, slot, ws)) (s : State) : effect i s = hostWrites a slot ws s := by
  cases i <;> first
    | (simp only [recordOf, reduceCtorEq] at h; done)
    | (simp only [recordOf, Option.some.injEq, Prod.mk.injEq] at h
       obtain ⟨rfl, rfl, rfl⟩ := h; rfl)

/-- It writes sixteen words. -/
theorem recordOf_length {i : Instr} {a : AsmId} {slot : Nat} {ws : List Word}
    (h : recordOf i = some (a, slot, ws)) (hw : i.wf = true) : ws.length = 16 := by
  cases i <;> first
    | (simp only [recordOf, reduceCtorEq] at h; done)
    | (simp only [recordOf, Option.some.injEq, Prod.mk.injEq] at h
       obtain ⟨-, -, rfl⟩ := h
       first
         | rw [directiveWords_length (by simp)]
         | (unfold laneSetWords; rw [directiveWords_length (by simp)])
         | (simp only [Instr.wf, IngestFields.wf, Bool.and_eq_true, beq_iff_eq] at hw
            rw [ingestWords_length hw.2]))

/-- A record command whose burst finds the part ready leaves the part after the burst. -/
theorem record_exec {i : Instr} {a : AsmId} {slot : Nat} {ws : List Word} {w : Window} {s : State}
    (h : recordOf i = some (a, slot, ws)) (hw : i.wf = true) (R : Ready a slot w s) :
    exec i s = .next (afterBurst a slot w ws s) := by
  rw [exec_of_wf hw, effect_record h, hostWrites_ready R (recordOf_length h hw)]

/-- What the burst leaves beside the record's effect. -/
theorem afterBurst_recorded {a : AsmId} {slot : Nat} {w : Window} {s : State} (ws : List Word)
    (R : Ready a slot w s) :
    Recorded a slot w ws (processByBlock a (burstRecord slot ws s) (grantedBurst w slot s)).disp
      (processByBlock a (burstRecord slot ws s) (grantedBurst w slot s)).isStop s (afterBurst a slot w ws s) := by
  obtain ⟨h1, h2, h3, h4, h5, h6, h7⟩ := processRecord_fields a (burstRecord slot ws s) (grantedBurst w slot s)
  refine ⟨h1, h2, ?_, h7, ?_, ?_⟩
  · show { (processRecord a (burstRecord slot ws s) (grantedBurst w slot s)).path with
      portM := some (burstOnPortM w slot ws s) } = _
    rw [h3]; rfl
  · have hn : NoWriteBack (grantedBurst w slot s) := by
      intro q hq
      rw [show (grantedBurst w slot s).engine.requests = s.engine.requests from rfl, R.noEntry] at hq
      cases hq
    have hp := hn.process a (burstRecord slot ws s)
    have hq := processByBlock_processing a (burstRecord slot ws s) (grantedBurst w slot s)
    show _ ∈ (processRecord a (burstRecord slot ws s) (grantedBurst w slot s)).engine.requests
    unfold processRecord
    generalize processByBlock a (burstRecord slot ws s) (grantedBurst w slot s) = p at hp hq
    unfold placeHandoff
    have hb : State.ringBase p.state a = w.base := by
      unfold State.ringBase
      have : p.state.ringWindow a = s.ringWindow a := by
        cases a <;> unfold State.ringWindow State.windowOf <;> rw [hq.path] <;> rfl
      rw [this, R.window]
    dsimp only
    rw [hb, enterRequest_free]
    · simp [burstRecord]
    · unfold State.requesterBusy
      rw [Bool.or_eq_false_iff]
      constructor
      · rw [List.any_eq_false]
        intro q hm
        have := hp q hm a
        simpa using this
      · show (match p.state.path.portM with | some m => m.owner == .engine (.writeBack a) | none => false) = false
        rw [hq.path]; rfl
  · show (processRecord a (burstRecord slot ws s) (grantedBurst w slot s)).unit = { s.unit with
      softOverride := (processRecord a (burstRecord slot ws s) (grantedBurst w slot s)).unit.softOverride }
    rw [h4]; rfl

/-- A record's lanes, reports and override flag are those its block leaves. -/
theorem afterBurst_block (a : AsmId) (slot : Nat) (w : Window) (ws : List Word) (s : State) :
    (afterBurst a slot w ws s).lanes =
      (processByBlock a (burstRecord slot ws s) (grantedBurst w slot s)).state.lanes ∧
    (afterBurst a slot w ws s).report =
      (processByBlock a (burstRecord slot ws s) (grantedBurst w slot s)).state.report ∧
    (afterBurst a slot w ws s).unit.softOverride =
      (processByBlock a (burstRecord slot ws s) (grantedBurst w slot s)).state.unit.softOverride := by
  obtain ⟨h1, h2, -, -, h5⟩ := afterBurst_fields a slot w ws s
  exact ⟨h1, h2, by rw [h5]⟩

/-! ## Ingest records -/

/-- The work an ingest record gives its lane. -/
def ingestWork (l : LaneId) (slot : Nat) (ws : List Word) (s : State) : Work × Disposition :=
  processIngest (s.laneCtx l) (burstRecord slot ws s) { lane := s.lanes.get l, out := [] }

/-- An ingest record's burst: the lane takes the work, and the disposition is the work's. -/
theorem ingest_burst {i : Instr} {l : LaneId} {slot : Nat} {ws : List Word} {w : Window} {s : State}
    (h : recordOf i = some (.lane l, slot, ws)) (hw : i.wf = true) (R : Ready (.lane l) slot w s) :
    ∃ t, exec i s = .next t ∧ Recorded (.lane l) slot w ws (ingestWork l slot ws s).2 false s t ∧
      t.lanes = s.lanes.set l (ingestWork l slot ws s).1.lane ∧
      t.unit.softOverride = s.unit.softOverride ∧
      ((ingestWork l slot ws s).1.out = [] → t.report = s.report) := by
  refine ⟨_, record_exec h hw R, afterBurst_recorded ws R, ?_, ?_, ?_⟩
  · rw [(afterBurst_block _ _ _ _ _).1]
    exact (finishWork_shared l (ingestWork l slot ws s).1
      { grantedBurst w slot s with freeIndex := (grantedBurst w slot s).freeIndex + 1 }).lanes
  · rw [(afterBurst_block _ _ _ _ _).2.2]
    rw [show (processByBlock (.lane l) (burstRecord slot ws s) (grantedBurst w slot s)).state.unit =
      (grantedBurst w slot s).unit from (finishWork_shared l (ingestWork l slot ws s).1
      { grantedBurst w slot s with freeIndex := (grantedBurst w slot s).freeIndex + 1 }).unit]
    rfl
  · intro ho
    rw [(afterBurst_block _ _ _ _ _).2.1]
    show (finishWork l (ingestWork l slot ws s).1
      { grantedBurst w slot s with freeIndex := (grantedBurst w slot s).freeIndex + 1 }).report = _
    unfold finishWork
    rw [ho]; rfl

/-! ## Directives -/

/-- A directive's burst with its right check value: what `carryOut` makes of its words at the granted part. -/
theorem directive_burst {i : Instr} {k : DirectiveKind} {w1 w3 : Word} {xs : List Word} {check : Half}
    {slot : Nat} {w : Window} {s : State}
    (h : recordOf i = some (.command, slot, directiveWords k w1 w3 xs check)) (hw : i.wf = true)
    (R : Ready .command slot w s) (hx : xs.length ≤ 10)
    (hc : check = recordCheck (directiveWords k w1 w3 xs check)) :
    ∃ t, exec i s = .next t ∧
      let p := carryOut k (burstRecord slot (directiveWords k w1 w3 xs check) s).words (grantedBurst w slot s)
      Recorded .command slot w (directiveWords k w1 w3 xs check) p.disp p.isStop s t ∧
      t.lanes = p.state.lanes ∧ t.report = p.state.report ∧ t.unit.softOverride = p.state.unit.softOverride := by
  have e := directive_processed slot s (grantedBurst w slot s) hx hc.symm
  have b := afterBurst_block .command slot w (directiveWords k w1 w3 xs check) s
  have r := afterBurst_recorded (directiveWords k w1 w3 xs check) R
  rw [e] at b r
  exact ⟨_, record_exec h hw R, r, b⟩

end Sys2Proof.Machine
end

