-- ==== Sys2Proof/Laws/InOrder.lean ====
section
/-!
SUPPORT. A record in sequence, said once: what its lane's work is up to step 4 of R52, and that the failover
evaluation of R52 step 6 leaves a good floor pen.
-/
namespace Sys2Proof.Machine

theorem Pair.set_set {α : Type} (p : Pair α) (k : SlotId) (x y : α) : (p.set k x).set k y = p.set k y := by
  cases k <;> rfl

theorem otherSlot_ne (k : SlotId) : otherSlot k ≠ k := by cases k <;> decide

/-- The form tests pass a good form (R44). -/
theorem formFailure_good {kind : IngestKind} {r : IngestFields} {slot : Nat} {s : State} (h : GoodForm kind r)
    (ht : r.text.length = 10) :
    formFailure (readIngest (burstRecord slot (ingestWords kind r) s)) = none := by
  rw [readIngest_words slot kind r s ht]
  obtain ⟨h1, h2, h3⟩ := h
  have hc : ((charsOf r.text).take r.length.toNat).all charOk = true := by
    rw [List.all_eq_true]; intro ch hm; simpa [charOk] using h3 ch hm
  unfold formFailure IngestRecord.text
  dsimp only
  by_cases hk : kind = .token
  · subst hk
    rw [if_pos rfl] at h1
    simp [h1, hc]
  · rw [if_neg hk] at h1
    by_cases hk2 : kind = .correct
    · subst hk2
      have := h2 rfl
      rw [h1] at hc
      simp [h1, this]
    · rw [h1] at hc
      simp [h1, hk, hk2]

/-- A record that passes the tests 1 to 5 of R45 goes to the Pen Monitor. -/
theorem processIngest_heard {c : LaneCtx} {x : Rec} {w : Work} {kind : IngestKind} {k : SlotId}
    (on : w.lane.hold.state ≠ .off) (hc : checkPasses x = true) (hf : formFailure (readIngest x) = none)
    (hk : (readIngest x).kind = some kind) (hp : w.lane.pens.slotOf (readIngest x).pen = some k) :
    processIngest c x w = monitored c k w (wellFormedRecord c k kind (readIngest x) w) := by
  unfold processIngest
  rw [if_neg on]
  unfold classify
  dsimp only
  rw [hc, hf, hk, hp]
  rfl

/-- The same for a record as its command writes it. -/
theorem ingestWork_heard {kind : IngestKind} {l : LaneId} {slot : Nat} {w : Window} {k : SlotId}
    {r : IngestFields} {s : State} (H : Heard kind l slot w k r s) :
    ingestWork l slot (ingestWords kind r) s =
      monitored (s.laneCtx l) k { lane := s.lanes.get l, out := [] }
        (wellFormedRecord (s.laneCtx l) k kind (readIngest (burstRecord slot (ingestWords kind r) s))
          { lane := s.lanes.get l, out := [] }) := by
  have hr := readIngest_words slot kind r s H.text
  refine processIngest_heard H.on ?_ (formFailure_good H.form H.text) ?_ ?_
  · rw [ingest_checkPasses slot kind r s H.text, ← H.check]; exact beq_self_eq_true _
  · rw [hr]
  · rw [hr]; exact H.pen

/-- The lane with a slot of its pens replaced. -/
def Lane.withSlot (x : Lane) (k : SlotId) (p : PenSlot) : Lane := { x with pens := x.pens.withSlot k p }

/-- Setting a slot of the work's lane. -/
theorem setSlot_eq (w : Work) (k : SlotId) (p : PenSlot) :
    w.setSlot k p = { w with lane := w.lane.withSlot k p } := rfl

theorem withSlot_slot (w : Work) (k : SlotId) (p : PenSlot) :
    ({ w with lane := w.lane.withSlot k p } : Work).slot k = p := by
  show (w.lane.pens.slots.set k p).get k = p
  simp

theorem withSlot_withSlot (x : Lane) (k : SlotId) (p q : PenSlot) :
    (x.withSlot k p).withSlot k q = x.withSlot k q := by
  cases k <;> rfl

/-- R54: below 200 faults no pen is BARRED. -/
theorem healthOf_ne_barred {n : Nat} (h : n < 200) : healthOf n ≠ .barred := by
  unfold healthOf
  split
  · decide
  · split
    · decide
    · decide

/-- R54: a good record of a pen that is not BARRED. -/
theorem chargeGood_eq {c : LaneCtx} {k : SlotId} {w : Work} (h : (w.slot k).fault < 200) :
    ∃ out, chargeGood c k w =
        { lane := w.lane.withSlot k { w.slot k with fault := (w.slot k).fault - 1 }, out := w.out ++ out } ∧
      ((w.slot k).calm → out = []) := by
  have hb : (w.slot k).health ≠ .barred := healthOf_ne_barred h
  have hn : healthOf ((w.slot k).fault - 1) ≠ .barred := healthOf_ne_barred (by omega)
  unfold chargeGood
  rw [if_neg hb]
  unfold setFault
  dsimp only
  rw [if_neg (by simp [hn])]
  unfold reportHealth
  dsimp only
  rw [setSlot_eq, withSlot_slot]
  split
  · exact ⟨[], by simp, fun _ => rfl⟩
  · rename_i hne
    exact ⟨_, rfl, fun hcalm => absurd hcalm hne⟩

/-- R53: in sequence. -/
theorem seqTest_inSequence {b : Option Half} {q : Half} (h : b = none ∨ b = some (q - 1)) :
    seqTest b q = .inSequence := by
  rcases h with rfl | rfl
  · rfl
  · unfold seqTest
    simp

/-- R52 steps 2 to 4: a record in sequence of a pen that is not BARRED, before its effect. -/
theorem wellFormed_inOrder {c : LaneCtx} {k : SlotId} {kind : IngestKind} {r : IngestRecord} {w : Work}
    (hb : (w.slot k).base = none ∨ (w.slot k).base = some (r.seq - 1)) (hf : (w.slot k).fault < 200) :
    ∃ out, wellFormedRecord c k kind r w =
        recordEffect c k kind r false
          { lane := w.lane.withSlot k ((w.slot k).afterGood c.now r.seq), out := w.out ++ out } ∧
      ((w.slot k).calm → out = []) := by
  have hh : hear c k w = { w with lane := w.lane.withSlot k { w.slot k with lastHeard := c.now, silent := false } } := rfl
  unfold wellFormedRecord
  dsimp only
  rw [hh, withSlot_slot, seqTest_inSequence hb]
  dsimp only
  rw [setSlot_eq]
  have h2 := withSlot_slot { w with lane := w.lane.withSlot k { w.slot k with lastHeard := c.now, silent := false } } k
    { w.slot k with lastHeard := c.now, silent := false, base := some r.seq }
  obtain ⟨out, ho, hc⟩ := chargeGood_eq (c := c) (k := k) (w := { w with
    lane := (w.lane.withSlot k { w.slot k with lastHeard := c.now, silent := false }).withSlot k
      { w.slot k with lastHeard := c.now, silent := false, base := some r.seq } }) (by rw [h2]; exact hf)
  refine ⟨out, ?_, ?_⟩
  · rw [ho, h2]
    unfold afterSequence
    dsimp only
    rw [withSlot_withSlot, withSlot_withSlot]
    have hs : Work.slot { lane := w.lane.withSlot k ((w.slot k).afterGood c.now r.seq), out := w.out ++ out } k =
        (w.slot k).afterGood c.now r.seq :=
      withSlot_slot { lane := w.lane, out := w.out ++ out } k _
    have hn : healthOf ((w.slot k).fault - 1) ≠ .barred := healthOf_ne_barred (by omega)
    show (if (Work.slot { lane := w.lane.withSlot k ((w.slot k).afterGood c.now r.seq), out := w.out ++ out } k).health
      = .barred then _ else _) = _
    rw [hs, if_neg (by exact hn)]
    rfl
  · intro hcalm
    refine hc ?_
    rw [h2]
    exact hcalm

/-- R62: no transfer is made while the floor pen is good. -/
theorem failover_good {c : LaneCtx} {w : Work} {k : SlotId} (h : w.lane.pens.floorSlot = some k)
    (hb : (w.slot k).health ≠ .barred) (hf : (w.slot k).failing = false) : failover c w = w := by
  unfold failover
  split
  · rfl
  · rw [h]
    dsimp only
    rw [if_neg hb]
    simp [hf]

/-- R62: none is made in a lane whose floor is vacant. -/
theorem failover_vacant {c : LaneCtx} {w : Work} (h : w.lane.pens.floorSlot = none) : failover c w = w := by
  unfold failover
  split
  · rfl
  · rw [h]

/-- R52 step 6: no evaluation when no health has changed. -/
theorem evaluateChanged_same {c : LaneCtx} {before after : Work}
    (h : ∀ j, (after.slot j).health = (before.slot j).health) : evaluateChanged c before after = after := by
  unfold evaluateChanged
  rw [if_pos ⟨h .a, h .b⟩]

/-- The slot with the floor. -/
theorem floorSlot_some {p : Pens} {k : SlotId} (h : (p.slots.get k).role = .floor)
    (hs : (p.slots.get (otherSlot k)).role ≠ .floor) : p.floorSlot = some k := by
  unfold Pens.floorSlot
  cases k
  · exact if_pos h
  · exact (if_neg hs).trans (if_pos h)

theorem floorSlot_none {p : Pens} (h : ∀ k, (p.slots.get k).role ≠ .floor) : p.floorSlot = none := by
  unfold Pens.floorSlot
  exact (if_neg (h .a)).trans (if_neg (h .b))

/-- R52 step 6, R62: a good record of the floor pen never costs it the floor: when its health has changed at
all, it has risen to GOOD or WARN. -/
theorem evaluateChanged_floor {c : LaneCtx} {before after : Work} {k : SlotId}
    (hk : after.lane.pens.floorSlot = some k) (hs : (after.slot k).silent = false)
    (hf : (after.slot k).fault = (before.slot k).fault - 1) (hb : (before.slot k).fault < 200)
    (ho : (after.slot (otherSlot k)).health = (before.slot (otherSlot k)).health) :
    evaluateChanged c before after = after := by
  by_cases hc : (after.slot k).health = (before.slot k).health
  · apply evaluateChanged_same
    intro j
    cases j <;> cases k <;> first | exact hc | exact ho
  · have hg : (after.slot k).health ≠ .suspect := by
      intro h
      apply hc
      rw [h]
      unfold PenSlot.health at h
      rw [hf] at h
      unfold PenSlot.health healthOf
      unfold healthOf at h
      split at h
      · cases h
      · split at h
        · cases h
        · rw [if_neg (by omega), if_neg (by omega), if_pos hb]
    have hfail : (after.slot k).failing = false := by
      unfold PenSlot.failing
      rw [hs]
      simpa using hg
    unfold evaluateChanged
    split
    · rfl
    · exact failover_good hk (healthOf_ne_barred (by rw [hf]; omega)) hfail

/-- A record in sequence of a pen that is not BARRED: its work is its effect on the lane with the slot charged,
and the evaluation. -/
theorem inOrder_work {kind : IngestKind} {l : LaneId} {slot : Nat} {w : Window} {k : SlotId} {r : IngestFields}
    {s : State} (H : InOrder kind l slot w k r s) :
    ∃ out, ingestWork l slot (ingestWords kind r) s =
        monitored (s.laneCtx l) k { lane := s.lanes.get l, out := [] }
          (recordEffect (s.laneCtx l) k kind (readIngest (burstRecord slot (ingestWords kind r) s)) false
            { lane := (s.lanes.get l).withSlot k
                (((s.lanes.get l).pens.slots.get k).afterGood s.timer.f r.seq), out := out }) ∧
      (((s.lanes.get l).pens.slots.get k).calm → out = []) := by
  have hr := readIngest_words slot kind r s H.heard.text
  have hseq : (readIngest (burstRecord slot (ingestWords kind r) s)).seq = r.seq := by rw [hr]
  obtain ⟨out, h1, h2⟩ := wellFormed_inOrder (c := s.laneCtx l) (k := k) (kind := kind)
    (r := readIngest (burstRecord slot (ingestWords kind r) s)) (w := { lane := s.lanes.get l, out := [] })
    (by rw [hseq]; exact H.base) H.unbarred
  refine ⟨out, ?_, h2⟩
  rw [ingestWork_heard H.heard, h1, hseq]
  rfl

/-- The operands of a heard record make a command. -/
theorem Heard.wf {kind : IngestKind} {l : LaneId} {slot : Nat} {w : Window} {k : SlotId} {r : IngestFields}
    {s : State} (H : Heard kind l slot w k r s) : (ingestSlotOk slot && r.wf) = true := by
  rw [H.slotOk, Bool.true_and]; simpa [IngestFields.wf] using H.text

end Sys2Proof.Machine
end

