-- ==== Sys2Proof/Laws/Lanes.lean ====
section
/-!
SUPPORT. What a step can do to a lane, said once: a property of lanes that every piece of a lane's work
keeps (`LaneRule`) is kept by every command and every step.
-/
namespace Sys2Proof.Machine

/-- Every piece of work the spec gives a lane keeps `P`, and a lane after reset has it. -/
structure LaneRule (P : Lane → Prop) : Prop where
  reset : P .reset
  pens : ∀ c w, P w.lane → P (pensFieldStart c w).lane
  hold : ∀ c w, P w.lane → P (holdFieldStart c w).lane
  composer : ∀ fr par c w, P w.lane → P (composerFieldStart fr par c w).lane
  compose : ∀ fr par c w, P w.lane → P (takeCompose fr par c w).lane
  onset : ∀ c w, P w.lane → P (enterOnset c w).lane
  opening : ∀ fr c w, P w.lane → P (openActive fr c w).lane
  burst : ∀ c data w, P w.lane → P (burstEnd c data w).lane
  holdStart : ∀ cause c w, P w.lane → P (holdStart cause c w).lane
  holdEnd : ∀ cause c w, P w.lane → P (holdEnd cause c w).lane
  ingest : ∀ c x w, P w.lane → P (processIngest c x w).1.lane
  laneSet : ∀ p c w, p.ok = true → P w.lane → P (acceptLaneSet p c w).lane
  penSet : ∀ c q w, penSetBusy w.lane.pens q = false → penSetTaken w.lane.pens q = false → P w.lane →
    P (acceptPenSet c q w).lane
  cue : ∀ c first count w, P w.lane → P (acceptCue c first count w).lane
  uncue : ∀ w, P w.lane → P (acceptUncue w).lane
  link : ∀ m c w, P w.lane → P (acceptLink m c w).lane
  flush : ∀ c w, P w.lane → P (flushLane c w).lane
  restore : ∀ c k w, (w.slot k).isEmpty = false → P w.lane → P (acceptRestore c k w).lane
  lost : ∀ x, P x → P (x.count fun k => { k with lostRecords := k.lostRecords + 1 })

/-- Every lane of the part has `P`. -/
def AllLanes (P : Lane → Prop) (s : State) : Prop := ∀ l, P (s.lanes.get l)

variable {P : Lane → Prop}

theorem AllLanes.of_lanes {s t : State} (h : AllLanes P s) (e : t.lanes = s.lanes) : AllLanes P t := by
  intro l; rw [e]; exact h l

theorem AllLanes.shared {s t : State} (h : AllLanes P s) (e : SharedOnly s t) : AllLanes P t :=
  h.of_lanes e.lanes

theorem AllLanes.setLane {s : State} (h : AllLanes P s) (l : LaneId) {x : Lane} (hx : P x) :
    AllLanes P (s.setLane l x) := by
  intro k
  simp only [State.setLane_lanes, Quad.get_set]
  split
  · exact hx
  · exact h k

theorem AllLanes.runLane {s : State} (h : AllLanes P s) (l : LaneId) {f : LaneCtx → Work → Work}
    (hf : ∀ c w, P w.lane → P (f c w).lane) : AllLanes P (runLane l f s) :=
  (h.setLane l (hf (s.laneCtx l) { lane := s.lanes.get l, out := [] } (h l))).of_lanes (by simp [laneWork])

theorem AllLanes.foldl {α : Type} {f : State → α → State} (hf : ∀ s x, AllLanes P s → AllLanes P (f s x))
    (xs : List α) {s : State} (h : AllLanes P s) : AllLanes P (xs.foldl f s) := by
  induction xs generalizing s with
  | nil => exact h
  | cons x xs ih => exact ih (hf s x h)

/-! ## Line events -/

theorem LaneRule.takeOverride (R : LaneRule P) (cause : HoldCause) (a : Bool) (l : LaneId) {s : State}
    (h : AllLanes P s) : AllLanes P (takeOverride cause a l s) := by
  refine h.runLane l fun c w hw => ?_
  split
  · exact R.holdStart cause c w hw
  · exact R.holdEnd cause c w hw

theorem LaneRule.changeOverride (R : LaneRule P) (cause : HoldCause) (b a : Bool) {s : State}
    (h : AllLanes P s) : AllLanes P (changeOverride cause b a s) := by
  unfold Sys2Proof.Machine.changeOverride
  split
  · exact h
  · exact .foldl (fun t l ht => R.takeOverride cause a l ht) _ (h.of_lanes rfl)

theorem LaneRule.runTask (R : LaneRule P) (s : State) (t : Task) (h : AllLanes P s) :
    AllLanes P (runTask s t) := by
  cases t with
  | reference old => exact h.shared (handReport_shared _ _)
  | tally p =>
    show AllLanes P (tallyFieldStart p s)
    unfold tallyFieldStart
    dsimp only
    split
    · exact (h.of_lanes (by simp)).shared (handReport_shared _ _)
    · exact h
  | pens l => exact h.runLane l R.pens
  | hold l => exact h.runLane l R.hold
  | composer l p =>
    show AllLanes P (if _ then _ else _)
    split
    · exact h.runLane l (R.composer _ _)
    · exact h
  | compose l p =>
    show AllLanes P (if _ then _ else _)
    split
    · exact h.runLane l (R.compose _ _)
    · exact h
  | onset l => exact h.runLane l R.onset
  | override l a => exact R.takeOverride .ovrLine a l h

theorem LaneRule.runTasks (R : LaneRule P) (ts : List Task) {s : State} (h : AllLanes P s) :
    AllLanes P (runTasks ts s) :=
  .foldl R.runTask _ (h.of_lanes rfl)

theorem LaneRule.lineEvent (R : LaneRule P) (t : Timing) (v : Levels) (old : RefState) (x : FieldTimer)
    (work : List Task) {s : State} (h : AllLanes P s) : AllLanes P (lineEvent t v old x work s) :=
  R.runTasks _ (h.of_lanes rfl)

theorem LaneRule.lineFp (R : LaneRule P) (t : Timing) (fo : Bool) (v : Levels) {s : State}
    (h : AllLanes P s) : AllLanes P (lineFp t fo v s) := R.lineEvent _ _ _ _ _ h

theorem LaneRule.lineOther (R : LaneRule P) (t : Timing) (v : Levels) (old : RefState) (x : FieldTimer)
    {s : State} (h : AllLanes P s) : AllLanes P (lineOther t v old x s) := R.lineEvent _ _ _ _ _ h

/-! ## Records -/

theorem LaneRule.processBlock (R : LaneRule P) (a : AsmId) (x : Rec) {s : State} (h : AllLanes P s) :
    AllLanes P (processByBlock a x s).state := by
  cases a with
  | lane l =>
    refine AllLanes.shared ?_ (finishWork_shared l _ _)
    exact AllLanes.setLane (h.of_lanes rfl) l (R.ingest _ x _ (h l))
  | command =>
    show AllLanes P (processDirective x s).state
    unfold processDirective
    split
    · exact h
    · split
      · exact h
      · rename_i k _
        cases k <;> unfold carryOut <;> dsimp only [acceptState] <;>
          first
          | exact R.changeOverride _ _ _ (h.of_lanes rfl)
          | exact h
          | skip
        all_goals
          split
          · rename_i l _
            unfold laneDirective
            dsimp only
            first
            | (split
               · rename_i ok; exact h.runLane l fun c w hw => R.laneSet _ c w ok hw
               · exact h)
            | (split
               · exact h
               · split
                 · exact h
                 · rename_i nb nt
                   refine AllLanes.of_lanes (AllLanes.setLane h l
                     (R.penSet (s.laneCtx l) (readPenSet x.words) { lane := s.lanes.get l, out := [] }
                       (by simpa using nb) (by simpa using nt) (h l))) ?_
                   simp [acceptState, laneWork])
            | (unfold directiveCue
               dsimp only
               split
               · exact h
               · split
                 · exact h
                 · split
                   · exact h
                   · exact h.runLane l fun c w hw => R.cue c _ _ w hw)
            | exact h.runLane l fun c w hw => R.uncue w hw
            | (split
               · exact h.runLane l (R.link _)
               · exact h)
            | exact h.runLane l R.flush
            | (split
               · exact h
               · rename_i ne
                 refine AllLanes.of_lanes (AllLanes.setLane h l
                   (R.restore (s.laneCtx l) (directiveSlot x.words) { lane := s.lanes.get l, out := [] }
                     (by simpa [Work.slot] using ne) (h l))) ?_
                 simp [acceptState, laneWork])
            | exact h.shared (handReport_shared _ _)
          · exact h

theorem LaneRule.processRecord (R : LaneRule P) (a : AsmId) (x : Rec) {s : State} (h : AllLanes P s) :
    AllLanes P (processRecord a x s) := by
  refine AllLanes.shared ?_ (enterRequest_shared _ _)
  exact (R.processBlock a x h).of_lanes rfl

theorem LaneRule.stop (R : LaneRule P) (s : State) : AllLanes P (stopTakesEffect s) := by
  refine AllLanes.shared ?_ (handReport_shared _ _)
  intro l
  exact (Quad.get_all Lane.reset l).symm ▸ R.reset

theorem AllLanes.finish {s : State} (h : AllLanes P s) : AllLanes P (finishStopping s) := by
  unfold finishStopping
  split
  · exact h.of_lanes rfl
  · exact h

theorem AllLanes.reuse {s : State} (h : AllLanes P s) (a : AsmId) (x : Handoff) :
    AllLanes P (reuseSlot a x s) := by
  refine AllLanes.shared ?_ (handReport_shared _ _)
  exact h.of_lanes rfl

theorem LaneRule.lose (R : LaneRule P) (a : AsmId) (x : Rec) {s : State} (h : AllLanes P s) :
    AllLanes P (loseRecord a x s) := by
  refine AllLanes.shared ?_ (handReport_shared _ _)
  cases a with
  | lane l => exact h.setLane l (R.lost _ (h l))
  | command => exact h.of_lanes rfl

theorem AllLanes.new {s : State} (h : AllLanes P s) (a : AsmId) (slot : Nat) (d : Word) :
    AllLanes P (newRecord a slot d s) := h.of_lanes rfl

theorem LaneRule.startRest (R : LaneRule P) (a : AsmId) (slot : Nat) (d : Word) {s : State}
    (h : AllLanes P s) : AllLanes P (startRest a slot d s) := by
  unfold Sys2Proof.Machine.startRest
  dsimp only
  split
  · exact h.of_lanes rfl
  · exact h.of_lanes rfl
  · split
    · refine AllLanes.new ?_ a slot d
      refine R.lose a _ ?_
      exact h.of_lanes rfl
    · refine AllLanes.new ?_ a slot d
      refine R.processRecord a _ ?_
      exact h.of_lanes rfl

theorem LaneRule.startRecord (R : LaneRule P) (a : AsmId) (slot : Nat) (d : Word) {s : State}
    (h : AllLanes P s) : AllLanes P (startRecord a slot d s) := by
  unfold Sys2Proof.Machine.startRecord
  split
  · split
    · split
      · exact R.stop _
      · exact R.startRest a slot d (h.reuse a _)
    · exact R.startRest a slot d h
  · exact R.startRest a slot d h

theorem LaneRule.copyWord (R : LaneRule P) (a : AsmId) (o : Nat) (d : Word) {s : State} (h : AllLanes P s) :
    AllLanes P (copyWord a o d s).1 := by
  unfold Sys2Proof.Machine.copyWord
  split
  · exact R.startRecord a _ d h
  · unfold laterWord
    split
    · split
      · split
        · unfold completeRecord
          dsimp only
          split
          · exact h.of_lanes rfl
          · exact R.processRecord a _ (h.of_lanes rfl)
        · exact h.of_lanes rfl
      · exact h.of_lanes rfl
    · exact h.of_lanes rfl
    · exact h.of_lanes rfl

theorem LaneRule.writebackEnd (R : LaneRule P) (a : AsmId) (m : MAccess) (ok : Bool) {s : State}
    (h : AllLanes P s) : AllLanes P (writebackEnd a m ok s) := by
  unfold Sys2Proof.Machine.writebackEnd
  dsimp only
  split
  · exact h
  · rename_i x _
    have h1 : AllLanes P (s.setAsm a { s.asm.get a with handoff := none }) := h.of_lanes rfl
    split
    · exact h1
    · have h2 : AllLanes P
          (if ok then s.setAsm a { s.asm.get a with handoff := none }
            else ringReport a x.record.slot .engineError [codeItem 1, .whole (BitVec.ofNat 32 m.addr.toNat)]
              (s.setAsm a { s.asm.get a with handoff := none })) := by
        split
        · exact h1
        · exact h1.shared (handReport_shared _ _)
      split
      · exact R.stop _
      · split
        · exact R.processRecord a _ (h2.of_lanes rfl)
        · exact h2
        · exact h2

/-! ## Accesses -/

theorem LaneRule.takeWrite (R : LaneRule P) (p : Port) (a : Addr) (d : Word) {s : State} (h : AllLanes P s) :
    AllLanes P (takeWrite p a d s).1 := by
  unfold Sys2Proof.Machine.takeWrite
  split
  · unfold refuseWord
    exact h.of_lanes (by simp)
  · unfold passWrite
    dsimp only
    split
    · exact h
    · split
      · exact h
      · exact h.of_lanes rfl
      · split
        · exact R.copyWord _ _ d h
        · exact R.copyWord _ _ d h
        · exact h
        · exact h
        · dsimp only
          split
          · unfold offerConsume
            split
            · exact h.of_lanes rfl
            · exact h
          · exact h

theorem LaneRule.takeWrites (R : LaneRule P) (p : Port) (ds : List Word) (a : Addr) {s : State}
    (h : AllLanes P s) : AllLanes P (takeWrites p a ds s).1 := by
  induction ds generalizing a s with
  | nil => exact h
  | cons d ds ih => exact ih (a + 4) (R.takeWrite p a d h)

theorem LaneRule.takeRead (R : LaneRule P) (p : Port) (a : Addr) {s : State} (h : AllLanes P s) :
    AllLanes P (takeRead p a s).1 := by
  unfold Sys2Proof.Machine.takeRead
  split
  · exact h
  · exact h
  · split
    · dsimp only
      split
      · exact h
      · unfold readLatch
        dsimp only
        split
        · exact h.runLane _ (R.opening _)
        · exact h
    · exact h

theorem LaneRule.takeReads (R : LaneRule P) (p : Port) (n : Nat) (a : Addr) {s : State}
    (h : AllLanes P s) : AllLanes P (takeReads p n a s).1 := by
  induction n generalizing a s with
  | zero => exact h
  | succ n ih => exact ih (a + 4) (R.takeRead p a h)

theorem AllLanes.start {s : State} (h : AllLanes P s) : AllLanes P (doStart s) := by
  unfold doStart
  split
  · exact h.shared (enterRequest_shared _ _)
  · refine AllLanes.shared ?_ (enterRequest_shared _ _)
    refine AllLanes.of_lanes (AllLanes.shared ?_ (enterRequest_shared _ (loadSetup s))) rfl
    exact h.of_lanes rfl

theorem LaneRule.takeAccess (R : LaneRule P) (p : Port) (x : Access) {s : State} (h : AllLanes P s) :
    AllLanes P (takeAccess p x s).1 := by
  unfold Sys2Proof.Machine.takeAccess
  dsimp only
  have h1 : AllLanes P (match x.xfer with
      | .write data => Sys2Proof.Machine.takeWrites p x.addr data s
      | .read n => Sys2Proof.Machine.takeReads p n x.addr s).1 := by
    split
    · exact R.takeWrites p _ _ h
    · exact R.takeReads p _ _ h
  split
  · exact h1.start
  · exact h1

theorem LaneRule.grantPort (R : LaneRule P) (p : Port) (x : Access) {s : State} (h : AllLanes P s) :
    AllLanes P (grantPort p x s) := by
  unfold Sys2Proof.Machine.grantPort
  exact AllLanes.of_lanes (R.takeAccess p x (h.of_lanes (by simp))) rfl

theorem AllLanes.grantEngine {s : State} (h : AllLanes P s) (q : Request) : AllLanes P (grantEngine q s) :=
  h.of_lanes rfl

theorem LaneRule.arbitrateTurn (R : LaneRule P) {s : State} (h : AllLanes P s) :
    AllLanes P (arbitrateTurn s) := by
  unfold Sys2Proof.Machine.arbitrateTurn
  split
  · split
    · exact h.of_lanes rfl
    · exact R.grantPort _ _ (h.of_lanes rfl)
  · exact R.grantPort _ _ (h.of_lanes rfl)
  · exact h.of_lanes rfl
  · exact h

theorem LaneRule.arbitrate (R : LaneRule P) {s : State} (h : AllLanes P s) : AllLanes P (arbitrate s) := by
  unfold Sys2Proof.Machine.arbitrate
  split
  · exact h
  · split
    · exact R.grantPort _ _ h
    · split
      · split
        · exact h.grantEngine _
        · exact R.arbitrateTurn h
      · exact R.arbitrateTurn h

theorem LaneRule.settle (R : LaneRule P) {s : State} (h : AllLanes P s) : AllLanes P (settle s) :=
  (R.arbitrate h.finish).finish

theorem LaneRule.receive (R : LaneRule P) (p : Port) (x : Access) {s : State} (h : AllLanes P s) :
    AllLanes P (receive p x s) := by
  unfold Sys2Proof.Machine.receive
  split
  · split
    · exact R.settle (h.of_lanes (by simp))
    · refine R.settle (AllLanes.of_lanes (R.takeAccess p x h) ?_)
      simp [respond]
  · exact h

theorem LaneRule.engineEnd (R : LaneRule P) (r : Requester) (m : MAccess) (e : Ending) {s : State}
    (h : AllLanes P s) : AllLanes P (engineEnd r m e s) := by
  cases r with
  | writeBack a => exact R.writebackEnd a m _ h
  | fetch l =>
    show AllLanes P (if _ then _ else _)
    split
    · exact h
    · exact h.runLane l fun c w hw => R.burst c _ w hw
  | report =>
    show AllLanes P (if _ then _ else if _ then _ else _)
    split
    · exact h
    · split
      · exact h.shared (writerFailed_shared s)
      · exact h.shared (writerDone_shared s)
  | setupResult => exact h

theorem LaneRule.endAccess (R : LaneRule P) (m : MAccess) (e : Ending) {s : State} (h : AllLanes P s) :
    AllLanes P (endAccess m e s) := by
  unfold Sys2Proof.Machine.endAccess
  dsimp only
  split
  · refine R.settle (h.of_lanes ?_)
    simp [respond]
  · refine R.settle (AllLanes.shared ?_ (promoteDeferred_shared _))
    refine R.engineEnd _ m e ?_
    exact h.of_lanes rfl

theorem LaneRule.answerIf (R : LaneRule P) (p : Owner → Bool) (a : MemAnswer) {s : State}
    (h : AllLanes P s) : AllLanes P (answerIf p a s) := by
  unfold Sys2Proof.Machine.answerIf
  split
  · split
    · exact R.endAccess _ _ h
    · exact h
  · exact h

theorem LaneRule.hostWrites (R : LaneRule P) (a : AsmId) (slot : Nat) (ws : List Word) {s : State}
    (h : AllLanes P s) : AllLanes P (hostWrites a slot ws s) := by
  unfold Sys2Proof.Machine.hostWrites
  split
  · exact R.receive _ _ h
  · exact h

/-! ## Commands and steps -/

/-- A property that every piece of a lane's work keeps is kept by every command's effect. -/
theorem LaneRule.effect (R : LaneRule P) (i : Instr) {s : State} (h : AllLanes P s) :
    AllLanes P (effect i s) := by
  have reset : ∀ k straps, AllLanes P (resetPart k straps s) :=
    fun _ _ l => show P ((Quad.all Lane.reset).get l) from (Quad.get_all Lane.reset l).symm ▸ R.reset
  cases i <;> dsimp only [Sys2Proof.Machine.effect]
  case powerOnReset straps => exact reset _ _
  case resetPin straps => exact reset _ _
  case realFp fo v =>
    unfold takeFp
    split
    · exact R.settle (R.lineFp _ _ _ h)
    · exact h
  case realLp v =>
    unfold takeLp
    split
    · exact R.settle (R.lineOther _ _ _ _ h)
    · exact h
  case synthesisedLine v =>
    unfold takeSynthesised
    split
    · split
      · exact R.settle (R.lineOther _ _ _ _ h)
      · exact h
    · exact h
  case lpAbsence v =>
    unfold takeAbsence
    split
    · split
      · exact R.settle (R.lineOther _ _ _ _ h)
      · exact h
    · exact h
  case upstreamAccess p x => exact R.receive p x h
  case airWord0Read l n =>
    unfold readAir
    split
    · exact R.receive _ _ h
    · exact h
  case consumeIndexWrite x =>
    unfold writeConsume
    split
    · exact R.receive _ _ h
    · exact h
  case start rest => exact R.receive _ _ h
  case responseTimerExpiry =>
    unfold expire
    split
    · exact R.endAccess _ _ h
    · exact h
  case lateMemoryAnswer a => exact h
  all_goals first | exact R.hostWrites _ _ _ h | exact R.answerIf _ _ h

/-- A property that every piece of a lane's work keeps is kept by every step. -/
theorem LaneRule.step (R : LaneRule P) {s t : State} (h : AllLanes P s) (e : step s = .next t) :
    AllLanes P t := by
  obtain ⟨-, rfl⟩ | ⟨c, rest, -, -, rfl⟩ := step_next e
  · exact h
  · exact R.effect c (h.of_lanes rfl)

/-- It holds after reset. -/
theorem LaneRule.atReset (R : LaneRule P) : AllLanes P State.reset :=
  fun l => show P ((Quad.all Lane.reset).get l) from (Quad.get_all Lane.reset l).symm ▸ R.reset

end Sys2Proof.Machine
end

