-- ==== Sys2Proof/Laws/Lines.lean ====
section
/-!
SUPPORT. What a line event can do beside the lanes' own work, said once: the filters take one sample, and no piece of
the blocks' work reaches the timer or anything outside the lanes and the shared units but a refusal tally.
-/
namespace Sys2Proof.Machine

/-- R13: each filter takes one sample of its line. -/
theorem sampled_sampled (t : Timing) (v : Levels) (x : FieldTimer) : Sampled t v x (x.sampled t v) :=
  ⟨rfl, fun l => by cases l <;> rfl, rfl⟩

/-- Nothing but the two refusal tallies of the Memory Path, the lanes and the shared units is changed. -/
structure LineWork (s t : State) : Prop where
  timer : t.timer = s.timer
  frame : LineFrame s t
  unit : t.unit = s.unit
  windows : t.path.windows = s.path.windows
  portM : t.path.portM = s.path.portM
  lastServed : t.path.lastServed = s.path.lastServed

theorem LineFrame.refl (s : State) : LineFrame s s := ⟨rfl, rfl, ⟨rfl, rfl⟩, ⟨rfl, rfl⟩, rfl, rfl, rfl, fun _ => ⟨rfl, rfl⟩⟩

theorem LineWork.refl (s : State) : LineWork s s := ⟨rfl, .refl s, rfl, rfl, rfl, rfl⟩

theorem LineWork.trans {s t u : State} (h : LineWork s t) (k : LineWork t u) : LineWork s u :=
  { timer := k.timer.trans h.timer, unit := k.unit.trans h.unit, windows := k.windows.trans h.windows,
    portM := k.portM.trans h.portM, lastServed := k.lastServed.trans h.lastServed,
    frame :=
      { pending := k.frame.pending.trans h.frame.pending, asm := k.frame.asm.trans h.frame.asm,
        portH := ⟨k.frame.portH.1.trans h.frame.portH.1, k.frame.portH.2.trans h.frame.portH.2⟩,
        portV := ⟨k.frame.portV.1.trans h.frame.portV.1, k.frame.portV.2.trans h.frame.portV.2⟩,
        limit := k.frame.limit.trans h.frame.limit, copy := k.frame.copy.trans h.frame.copy,
        soft := k.frame.soft.trans h.frame.soft,
        unit := fun _ => ⟨k.unit.trans h.unit, k.windows.trans h.windows⟩ } }

/-- Work that changes neither the Memory Path, the timer, the assemblers nor the Command Unit. -/
theorem LineWork.of {s t : State} (p : t.pending = s.pending) (i : t.timer = s.timer) (q : t.path = s.path)
    (a : t.asm = s.asm) (u : t.unit = s.unit) : LineWork s t :=
  { timer := i, unit := u, windows := by rw [q], portM := by rw [q], lastServed := by rw [q],
    frame :=
      { pending := p, asm := a, portH := by rw [q]; exact ⟨rfl, rfl⟩, portV := by rw [q]; exact ⟨rfl, rfl⟩,
        limit := by rw [q], copy := by rw [u], soft := by rw [u], unit := fun _ => ⟨u, by rw [q]⟩ } }

theorem runLane_lineWork (l : LaneId) (f : LaneCtx → Work → Work) (s : State) : LineWork s (runLane l f s) :=
  .of (by simp) (by simp) (by simp) (by simp) (by simp)

theorem handReport_lineWork (r : Report) (s : State) : LineWork s (handReport r s) :=
  .of (by simp) (by simp) (by simp) (by simp) (by simp)

/-- R25: a tally that returns to 0. -/
theorem tallyFieldStart_lineWork (p : Port) (s : State) : LineWork s (tallyFieldStart p s) := by
  unfold tallyFieldStart
  dsimp only
  split
  · refine LineWork.trans ?_ (handReport_lineWork _ _)
    cases p <;> exact ⟨rfl, ⟨rfl, rfl, ⟨rfl, rfl⟩, ⟨rfl, rfl⟩, rfl, rfl, rfl, fun _ => ⟨rfl, rfl⟩⟩, rfl, rfl, rfl, rfl⟩
  · exact .refl s

theorem LineWork.ite {s a b : State} {p : Prop} [Decidable p] (h : LineWork s a) (k : LineWork s b) :
    LineWork s (if p then a else b) := by split <;> assumption

/-- What one piece of work can do. -/
theorem runTask_lineWork (s : State) (k : Task) : LineWork s (runTask s k) := by
  cases k with
  | reference old => exact handReport_lineWork _ s
  | tally p => exact tallyFieldStart_lineWork p s
  | pens l => exact runLane_lineWork l _ s
  | hold l => exact runLane_lineWork l _ s
  | composer l p => exact .ite (runLane_lineWork l _ s) (.refl s)
  | compose l p => exact .ite (runLane_lineWork l _ s) (.refl s)
  | onset l => exact runLane_lineWork l _ s
  | override l a => exact runLane_lineWork l _ s

/-- What all the pieces of work of an event can do, in whatever order. -/
theorem runTasks_lineWork (ts : List Task) (s : State) : LineWork s (runTasks ts s) := by
  have h : ∀ (xs : List Task) (t : State), LineWork s t → LineWork s (xs.foldl runTask t) := by
    intro xs
    induction xs with
    | nil => exact fun _ k => k
    | cons x xs ih => exact fun t k => ih _ (k.trans (runTask_lineWork t x))
  exact h _ _ (.of rfl rfl rfl rfl rfl)

/-- R3: the timer that a line event leaves: its first part's, with each filter sampled. -/
theorem lineEvent_timer (t : Timing) (v : Levels) (old : RefState) (x : FieldTimer) (work : List Task) (s : State) :
    (lineEvent t v old x work s).timer = x.sampled t v := (runTasks_lineWork _ _).timer

end Sys2Proof.Machine
end

