-- ==== Sys2Proof/Laws/Path.lean ====
section
/-!
SUPPORT. What the ends of accesses, the report writer's turn and the open orders do, said once: an answer reaches the
access on Port M alone,
the end of an access nobody waits behind ends the event, and an open order is a permutation.
-/
namespace Sys2Proof.Machine

/-! ## Open orders (log 4) -/

theorem permuteFuel_perm {α : Type} (n : Nat) (code : Nat) (xs : List α) : (permuteFuel n code xs).Perm xs := by
  induction n generalizing code xs with
  | zero => exact .refl xs
  | succ n ih =>
    cases xs with
    | nil => exact .refl _
    | cons x xs =>
      have hk : code % (xs.length + 1) < (x :: xs).length := Nat.mod_lt _ (Nat.succ_pos _)
      have hd : (x :: xs).getD (code % (xs.length + 1)) x = (x :: xs)[code % (xs.length + 1)] := by
        rw [List.getD_eq_getElem?_getD, List.getElem?_eq_getElem hk]; rfl
      unfold permuteFuel
      simp only [hd]
      exact ((ih _ _).cons _).trans (List.getElem_cons_eraseIdx_perm hk)

/-- Whatever the code, every piece of work is done once. -/
theorem permute_perm {α : Type} (code : Nat) (xs : List α) : (permute code xs).Perm xs :=
  permuteFuel_perm xs.length code xs

theorem mem_permute {α : Type} {code : Nat} {xs : List α} {x : α} : x ∈ permute code xs ↔ x ∈ xs :=
  (permute_perm code xs).mem_iff

/-! ## The report writer (R173) -/

/-- R30: an access whose requester has none under way is in the list. -/
theorem mem_enterRequest {q : Request} {s : State} (h : s.requesterBusy q.requester = false) :
    q ∈ (enterRequest q s).engine.requests := by
  rw [enterRequest_free h]; exact List.mem_append_right _ List.mem_cons_self

/-- What an idle writer's turn leaves of the Report Unit, whether the engine is free or not (log 17). -/
theorem writerBegin_report {s : State} (h : s.report.phase = .idle) : (writerBegin s).report = s.report.begun := by
  unfold writerBegin enterRecord ReportUnit.begun
  rw [if_pos h]
  dsimp only [State.setReport]
  split <;> rename_i hd <;> simp [hd, h]

/-- The first access of the report an idle writer begins. -/
theorem writerBegin_entered {s : State} {r : Report} {rs : List Report} (h : s.report.phase = .idle)
    (free : s.requesterBusy .report = false) (first : s.report.begun.staging = r :: rs) :
    s.recordWrite s.report.produce 0 r ∈ (writerBegin s).engine.requests := by
  have hd : (dropFull s.report.freeRecords s.report.staging s.report.dropped).1 = r :: rs := first
  unfold writerBegin enterRecord
  rw [if_pos h]
  dsimp only [State.setReport]
  rw [hd]
  exact mem_enterRequest free

/-! ## The end of an event (R27, R169) -/

/-- R29: an empty list has no front entry. -/
theorem frontEntry_empty {s : State} (h : s.engine.requests = []) : s.frontEntry = none := by
  unfold State.frontEntry; rw [h]; rfl

/-- R27: with nobody waiting, an arbitration grants nothing. -/
theorem arbitrate_quiet {s : State} (h : s.NoneWaits) : arbitrate s = s := by
  cases hm : s.path.portM with
  | some m => exact arbitrate_busy (by rw [hm]; rfl)
  | none =>
    obtain ⟨hh, hv, he⟩ := h hm
    unfold arbitrate arbitrateTurn
    rw [hm, hv, hh, frontEntry_empty he]
    rfl

/-- With nobody waiting, an event outside STOPPING ends with nothing more to do. -/
theorem settle_quiet {s : State} (h : s.NoneWaits) (k : s.unit.partState ≠ .stopping) : settle s = s := by
  unfold settle
  rw [finishStopping_of_ne k, arbitrate_quiet h, finishStopping_of_ne k]

/-! ## Answers (R26) -/

theorem answerIf_free {p : Owner → Bool} {a : MemAnswer} {s : State} (h : s.path.portM = none) :
    answerIf p a s = s := by
  unfold answerIf; rw [h]

theorem answerIf_other {p : Owner → Bool} {a : MemAnswer} {s : State} {m : MAccess} (h : s.path.portM = some m)
    (k : p m.owner = false) : answerIf p a s = s := by
  unfold answerIf; rw [h]; simp [k]

theorem answerIf_owner {p : Owner → Bool} {a : MemAnswer} {s : State} {m : MAccess} (h : s.path.portM = some m)
    (k : p m.owner = true) : answerIf p a s = endAccess m (.answered a) s := by
  unfold answerIf; rw [h]; simp [k]

/-- R24: an upstream access ends at its port. -/
theorem endAccess_port {m : MAccess} {p : Port} {e : Ending} {s : State} (h : m.owner = .port p) :
    endAccess m e s = settle (respond p (e.response m.isWrite m.words).code (e.response m.isWrite m.words).data
      (s.setPortM none)) := by
  unfold endAccess; simp only [h]

/-- R31: an engine access ends at its requester. -/
theorem endAccess_engine {m : MAccess} {r : Requester} {e : Ending} {s : State} (h : m.owner = .engine r) :
    endAccess m e s = settle (promoteDeferred (engineEnd r m e (s.setPortM none))) := by
  unfold endAccess; simp only [h]

end Sys2Proof.Machine
end

