-- ==== Sys2Proof/Laws/Override.lean ====
section
/-!
SUPPORT. What a change of the override leaves of a lane, said once: each hold's start and end leaves the lane that
Safety.lean names, and a change of the effective override does it to every lane, whatever the order.
-/
namespace Sys2Proof.Machine

/-! ## One lane (R158 to R162) -/

@[simp] theorem holdReport_lane (c : LaneCtx) (cause : HoldCause) (old : LaneState) (tokens standby : Nat) (w : Work) :
    (holdReport c cause old tokens standby w).lane = w.lane := rfl

@[simp] theorem softHoldStart_lane (c : LaneCtx) (cause : HoldCause) (w : Work) :
    (softHoldStart c cause w).lane = w.lane.afterSoftStart := rfl

theorem staleEntry_eq (threshold : Field) (e : Entry) :
    staleEntry threshold e = (e.composed == 0 && e.body.tok?.any fun t => earlier t.due threshold) := by
  unfold staleEntry; cases e.body <;> rfl

@[simp] theorem softHoldEnd_lane (c : LaneCtx) (cause : HoldCause) (w : Work) :
    (softHoldEnd c cause w).lane = w.lane.afterSoftEnd c.now := by
  have h : ∀ th : Field, staleEntry th = fun e => (e.composed == 0 && e.body.tok?.any fun t => earlier t.due th) :=
    fun th => funext (staleEntry_eq th)
  unfold softHoldEnd Lane.afterSoftEnd staleTok
  simp only [holdReport_lane, h, BitVec.ofNat_add]
  rfl

/-- R135, R160: what a flush or a hard hold leaves of the follower. -/
theorem unlockFollower_lane (c : LaneCtx) (cause : ScriptCause) (w : Work) :
    (unlockFollower c cause w).lane =
      { w.lane with follower := { w.lane.follower with
          state := if w.lane.follower.state = .locked then .cued else w.lane.follower.state,
          missRun := 0, seek := none } } := by
  unfold unlockFollower; dsimp only; split <;> simp_all [scriptReport, Work.setFollower]

@[simp] theorem hardHoldStart_lane (c : LaneCtx) (cause : HoldCause) (w : Work) :
    (hardHoldStart c cause w).lane = w.lane.afterHardStart := by
  unfold hardHoldStart Lane.afterHardStart
  dsimp only
  split <;> simp only [holdReport_lane, unlockFollower_lane] <;>
    simp [emptyLane, Work.setState, Work.setHold, discardCounts, Lane.queuedTokens, Composer.emptyRows,
      BitVec.ofNat_add]

@[simp] theorem hardHoldEnd_lane (c : LaneCtx) (cause : HoldCause) (w : Work) :
    (hardHoldEnd c cause w).lane = w.lane.afterHardEnd := rfl

theorem holdStart_lane (cause : HoldCause) (c : LaneCtx) (w : Work) :
    (holdStart cause c w).lane = w.lane.afterHoldStart := by
  unfold holdStart Lane.afterHoldStart
  split
  · split <;> simp [*]
  · rfl

theorem holdEnd_lane (cause : HoldCause) (c : LaneCtx) (w : Work) :
    (holdEnd cause c w).lane = w.lane.afterHoldEnd c.now := by
  unfold holdEnd Lane.afterHoldEnd
  split <;> simp [*]

/-! ## Every lane (R156) -/

/-- Work that reads of the part only the field count leaves each lane it is done to once as `g` says, whatever the
order of the lanes. -/
theorem foldl_runLane_lanes {f : LaneCtx → Work → Work} {g : Lane → Field → Lane}
    (h : ∀ c w, (f c w).lane = g w.lane c.now) (ls : List LaneId) (nd : ls.Nodup) (s : State) (l : LaneId) :
    ((ls.foldl (fun t k => runLane k f t) s).lanes.get l) =
      if l ∈ ls then g (s.lanes.get l) s.timer.f else s.lanes.get l := by
  induction ls generalizing s with
  | nil => simp
  | cons k ks ih =>
    obtain ⟨hk, nd'⟩ := List.nodup_cons.1 nd
    rw [List.foldl_cons, ih nd']
    have e : (runLane k f s).lanes.get l = if l = k then g (s.lanes.get k) s.timer.f else s.lanes.get l := by
      rw [runLane_lanes, Quad.get_set]; unfold laneWork; rw [h]; rfl
    by_cases hl : l = k
    · subst hl; rw [if_neg hk, if_pos List.mem_cons_self, e, if_pos rfl]
    · rw [e, if_neg hl, runLane_timer]; simp [hl]

theorem mem_allLanes (l : LaneId) : l ∈ allLanes := by cases l <;> decide

/-- R156: what a change of the effective override does to one lane. -/
theorem takeOverride_lanes (cause : HoldCause) (after : Bool) (l : LaneId) (s : State) :
    (takeOverride cause after l s).lanes = s.lanes.set l
      (if after then (s.lanes.get l).afterHoldStart else (s.lanes.get l).afterHoldEnd s.timer.f) := by
  unfold takeOverride
  rw [runLane_lanes]
  unfold laneWork
  cases after
  · exact congrArg _ (holdEnd_lane cause _ _)
  · exact congrArg _ (holdStart_lane cause _ _)

/-- R156: a change of the effective override does to every lane what its hold's start or end does. -/
theorem changeOverride_lane (cause : HoldCause) {before after : Bool} (h : before ≠ after) (s : State) (l : LaneId) :
    (changeOverride cause before after s).lanes.get l =
      if after then (s.lanes.get l).afterHoldStart else (s.lanes.get l).afterHoldEnd s.timer.f := by
  have nd : ((freshOrder allLanes s).1).Nodup := (permute_perm _ allLanes).nodup_iff.2 (by decide)
  have mem : l ∈ (freshOrder allLanes s).1 := mem_permute.2 (mem_allLanes l)
  unfold changeOverride takeOverride
  rw [if_neg h]
  dsimp only
  rw [foldl_runLane_lanes (g := fun x now => if after then x.afterHoldStart else x.afterHoldEnd now) ?_ _ nd]
  · rw [if_pos mem]; rfl
  · intro c w
    cases after
    · exact holdEnd_lane cause c w
    · exact holdStart_lane cause c w

end Sys2Proof.Machine
end

