-- ==== Sys2Proof/Tests/Slice0.lean ====
section
/-!
SUPPORT. The model's own tests: ill-formed operands are refused; each command on a small board; and a witness for
the hypotheses of each obligation.
-/
namespace Sys2Proof.Tests
open Sys2Proof Sys2Proof.Machine

/-! ## A small board -/

/-- Lane 0's INGEST window: 16 slots. -/
def ingestWin : Window := { base := 0x1000, length := 1024, kind := .ingest, lane := some .l0 }
/-- The COMMAND window: 16 slots. -/
def commandWin : Window := { base := 0x2000, length := 1024, kind := .command, lane := none }
/-- Lane 0's CUE window: 64 records. -/
def cueWin : Window := { base := 0x3000, length := 2048, kind := .cue, lane := some .l0 }
/-- Lane 0's AIR window. -/
def airWin : Window := { base := 0x4000, length := 64, kind := .air, lane := some .l0 }
/-- The REPORT window, with a ring of 8. -/
def reportWin : Window := { base := 0x5000, length := 288, kind := .report, lane := none }

/-- A pen slot with a pen in it. -/
def penOf (id : Half) (role : Role) : PenSlot :=
  { PenSlot.empty with pen := id, role := role, lastHeard := 99 }

/-- Lane 0: in RUN, pen 7 on the floor in slot A, pen 9 standing by in slot B. -/
def lane0 : Lane :=
  { Lane.reset with
    hold := { Hold.reset with state := .run },
    pens := { slots := ⟨penOf 7 .floor, penOf 9 .standby⟩, floor := .steady, standby := [], q := 100,
              takeWindow := 25 },
    tracker := { Tracker.reset with l := 20, d := 50, lmax := 40, s := 2, g := 10 },
    composer := { Composer.reset with c := 4, r := 3, w := 32 } }

/-- The timing values of the board. -/
def timing : Timing := { eOdd := 312, eEven := 313, k := 300, period := 320, vaGuard := 2, ovrGuard := 1 }

/-- A running part with lane 0 as given, every port idle and every queue empty. -/
def boardWith (x : Lane) : State :=
  { State.reset with
    timer := { FieldTimer.reset with
      timing := some timing, f := 100, absenceRunning := true,
      field := some { n := 10, parity := .odd, origin := .real, composeRaised := false } },
    path := { MemoryPath.reset false with
      windows := [some ingestWin, some commandWin, some cueWin, some airWin, some reportWin] ++
        List.replicate 11 none },
    unit := { CommandUnit.reset .power ⟨false, false, false⟩ with partState := .running },
    report := { ReportUnit.reset with ringSize := some 8 },
    lanes := (Quad.all Lane.reset).set .l0 x }

/-- The board with lane 0 in RUN. -/
def board : State := boardWith lane0

/-- The next state of an answer. -/
def nextOf : Answer → Option State
  | .next t => some t
  | .fault _ => none
  | .refused _ => none

/-- A record with its right check value. -/
def checked (k : IngestKind) (r : IngestFields) : IngestFields :=
  { r with check := recordCheck (ingestWords k r) }

/-- A record of pen `pen` with text "HI" where it is a TOKEN. -/
def record (pen seq : Half) (length : BitVec 5) (argument : BitVec 4) : IngestFields :=
  { newline := false, speaker := false, gap := false, length := length, argument := argument, pen := pen,
    seq := seq, argWord := 0, text := 0x00490048 :: List.replicate 9 0, check := 0 }

/-! ## Ill-formed operands are refused (WellFormed) -/

theorem test_refusesEmptyBurst : exec (.upstreamAccess .h { addr := 0, xfer := .read 0 }) board =
    .refused .illFormed := rfl
theorem test_refusesLongBurst : exec (.upstreamAccess .h { addr := 0, xfer := .read 17 }) board =
    .refused .illFormed := rfl
theorem test_refusesUnalignedBurst : exec (.upstreamAccess .h { addr := 2, xfer := .read 1 }) board =
    .refused .illFormed := rfl
theorem test_refusesBurstPastTheTop :
    exec (.upstreamAccess .h { addr := 0xFFFFFFC, xfer := .read 2 }) board = .refused .illFormed := rfl
theorem test_refusesEmptyAirBurst : exec (.airWord0Read .l0 0) board = .refused .illFormed := rfl
theorem test_refusesLongAirBurst : exec (.airWord0Read .l0 17) board = .refused .illFormed := rfl
theorem test_refusesLongStart : exec (.start (List.replicate 16 0)) board = .refused .illFormed := rfl
theorem test_refusesIngestSlot : exec (.token .l0 1024 (record 7 1 2 0)) board = .refused .illFormed := rfl
theorem test_refusesShortText :
    exec (.keepalive .l0 0 { record 7 1 0 0 with text := List.replicate 9 0 }) board = .refused .illFormed := rfl
theorem test_refusesCommandSlot : exec (.stop 256 0) board = .refused .illFormed := rfl

/-- No word spells a command, so `withFetchWord` leaves the state. -/
theorem test_noWordSpellsACommand : decodeTableWord 32 0x11 = none ∧ board.withFetchWord 32 0x11 = board :=
  ⟨rfl, rfl⟩

/-! ## Values the spec states -/

/-- 00_scope.md: the match key of a text that normalises to nothing is 0, and case and punctuation do not enter
a key. -/
theorem test_matchKey : matchKey [0x21, 0x2D] = 0 ∧ matchKey [0x68, 0x69, 0x21] = matchKey [0x48, 0x49] ∧
    matchKey [0x48, 0x49] ≠ 0 := by decide +kernel

/-- 00_scope.md: the wrap comparison of field numbers. -/
theorem test_wrapOrder : earlier 0xFFFFFFFF 0 = true ∧ earlier 0 0xFFFFFFFF = false ∧ earlier 5 5 = false := by
  decide

/-- Table 4-1, R54: the thresholds of health. -/
theorem test_health : healthOf 49 = .good ∧ healthOf 50 = .warn ∧ healthOf 99 = .warn ∧ healthOf 100 = .suspect ∧
    healthOf 199 = .suspect ∧ healthOf 200 = .barred := by decide

/-- Table 12-3: a disposition word: ACCEPTED, detail ADMITTED, pen health GOOD. -/
theorem test_dispositionWord : (acceptedOf 1 0).word = 0x00020101#32 := by decide

/-- Table 12-4: word 0 of a packet: generation 5, one cell, RUN. -/
theorem test_packetWord0 :
    { Packet.reset with generation := 5, cells := [.clear], laneState := .run }.word 0 = 0x10010005#32 := by decide

/-- R53: sequence tests at the borders. -/
theorem test_sequence : seqTest (some 5) 6 = .inSequence ∧ seqTest (some 5) 7 = .gap ∧
    seqTest (some 0) 32768 = .gap ∧ seqTest (some 0) 32769 = .duplicate ∧ seqTest (some 5) 5 = .duplicate ∧
    seqTest (some 65535) 0 = .inSequence ∧ seqTest none 9 = .inSequence := by decide

/-- R79: the step is limited to S, the result to 0 and D. -/
theorem test_estimate : stepEstimate 2 50 20 30 = 22 ∧ stepEstimate 2 50 20 0 = 18 ∧ stepEstimate 2 50 20 21 = 21 ∧
    stepEstimate 5 50 49 90 = 50 ∧ stepEstimate 5 50 2 0 = 0 := by decide

/-- R177: items packed: a code, a half and a whole word. -/
theorem test_packing : detailWords [.code 1, .half 2, .whole 3, .code 4] = [0x00000201#32, 3, 4] := by decide

/-! ## Commands on the board -/

theorem test_powerOnReset : nextOf (exec (.powerOnReset ⟨true, false, true⟩) board) =
    some (State.afterReset .power ⟨true, false, true⟩ [] 0) := rfl
theorem test_resetPin : (nextOf (exec (.resetPin ⟨false, false, false⟩) board)).map (·.unit.resetCause) =
    some .pin := rfl

/-- R4: the timer of a real FP: an irregular start. -/
theorem test_realFp : (board.timer.realFp timing false).f = 101 ∧ (board.timer.realFp timing false).irregular = 1 ∧
    (board.timer.realFp timing false).field =
      some { n := 1, parity := .even, origin := .real, composeRaised := false } := by decide

/-- R5: the timer of a real LP, and the threshold E + 2 of a REAL field. -/
theorem test_realLp : (board.timer.line timing).1.field.map (·.n) = some 11 ∧
    ({ board.timer with field := some { n := 312, parity := .odd, origin := .real, composeRaised := true } }.line
      timing).2 = .nothing ∧
    ({ board.timer with field := some { n := 313, parity := .odd, origin := .real, composeRaised := true } }.line
      timing).2 = .fieldStart .even := by decide

/-- R7: COMPOSE at line K. -/
theorem test_composeLine :
    ({ board.timer with field := some { n := 299, parity := .odd, origin := .real, composeRaised := false } }.line
      timing).2 = .compose .even := by decide

/-- R9: LINE-LOST and its line timer. -/
theorem test_lpAbsence : board.timer.lpLost.refState = .lineLost ∧ board.timer.lpLost.lineTimerRunning = true := by
  decide

/-- R13: a guard of 2. -/
theorem test_guard : (Guard.sample ⟨false, 0⟩ 2 true) = (⟨false, 1⟩, false) ∧
    (Guard.sample ⟨false, 1⟩ 2 true) = (⟨true, 0⟩, true) ∧ (Guard.sample ⟨false, 1⟩ 2 false) = (⟨false, 0⟩, false) := by
  decide

/-- R14, R156: at guards of 1 a line event that raises VA2 and OVR hands on an onset of lane 2 and a change of the
override at every lane; with the software flag on, OVR changes no lane. -/
theorem test_handedOn :
    let t : Timing := { timing with vaGuard := 1 }
    let v : Levels := { va0 := false, va1 := false, va2 := true, va3 := false, ovr := true }
    onsetTasks t v board.timer = [.onset .l2] ∧ (board.timer.sampled t v).ovr.taken = true ∧
    overrideTasks false false true = allLanes.map (fun l => .override l true) ∧ overrideTasks true false true = [] := by
  decide

/-- Log 25: a script record whose text needs a word the answer lacks is malformed; one that needs none is not. -/
theorem test_shortScript : readScript [2] = none ∧ readScript [3, 0x00490048] = none ∧
    (readScript [2, 0x00490048]).map (·.text) = some [0x48, 0x49] := by decide +kernel

/-- R16: a read outside all windows is granted Port M. -/
theorem test_upstreamAccess :
    (nextOf (exec (.upstreamAccess .v { addr := 0x9000, xfer := .read 2 }) board)).map
      (fun t => (t.path.portM.map (·.words), t.path.v.state)) =
    some (some [.load, .load], .inFlight) := by decide +kernel

/-- R21: a host write into the cued block is refused while it is followed. -/
theorem test_cueProtection :
    let s := boardWith { lane0 with follower := { Follower.reset with state := .cued, cue := some ⟨1, 2⟩ } }
    s.writeRefused .h 0x3020 = true ∧ s.writeRefused .h 0x305C = true ∧ s.writeRefused .h 0x301C = false ∧
      s.writeRefused .h 0x3060 = false := by decide +kernel

/-- R22: the AIR burst opens ACTIVE. -/
theorem test_airRead : (nextOf (exec (.airWord0Read .l0 16) board)).map
    (fun t => (t.lanes.l0.composer.latch, t.path.v.response.map (·.data.length), t.path.portM)) =
    some (some Packet.reset, some 16, none) := by decide +kernel

/-- R174: a consume index below the ring size is taken, one equal to it is not. -/
theorem test_consume :
    (nextOf (exec (.consumeIndexWrite 7) board)).map (·.report.consume) = some 7 ∧
    (nextOf (exec (.consumeIndexWrite 8) board)).map (·.report.consume) = some 0 := by decide +kernel

/-- R167: a START on an empty setup copy is refused for its timing values. -/
theorem test_startRefused : (nextOf (exec (.start []) State.reset)).map
    (fun t => (t.unit.partState, t.engine.requests.map (·.requester))) =
    some (.setup, [.setupResult]) := by decide +kernel

/-- A setup copy for the board's windows. -/
def setup : List Word :=
  ([1, 0, mkWord [312, place 313 16], mkWord [300], mkWord [320, place 2 16, place 1 24],
    mkWord [100, place 8 16]] ++ List.replicate 26 0) ++
  ([mkWord [0x1000, place 1 28], mkWord [1024], mkWord [0x2000, place 2 28], mkWord [1024],
    mkWord [0x3000, place 3 28], mkWord [2048], mkWord [0x4000, place 4 28], mkWord [64],
    mkWord [0x5000, place 5 28], mkWord [288]] ++ List.replicate 86 0)

/-- R168: a START on it makes the part RUNNING with its windows. -/
theorem test_startAccepted :
    setup.length = 128 ∧ setupFailure 0 setup = none ∧
    (readWindows setup).take 5 = [some ingestWin, some commandWin, some cueWin, some airWin, some reportWin] ∧
    (nextOf (exec (.start []) { State.reset with unit := { State.reset.unit with setupCopy := setup } })).map
      (fun t => (t.unit.partState, t.engine.requests.map (·.requester), t.report.phase)) =
    some (.running, [.setupResult, .report], .startDropped) := by decide +kernel

/-- R167: each test of the setup table has a copy that fails it. -/
theorem test_setupReasons :
    (setupFailure 0 (setup.set 2 0)).map (·.1) = some .value ∧
    setupFailure 0 (setup.set 32 (mkWord [0x1004, place 1 28])) = some (.entry, some 0) ∧
    setupFailure 0 (setup.set 39 (mkWord [128])) = some (.length, some 3) ∧
    setupFailure 0 (setup.set 34 (mkWord [0x13C0, place 2 28])) = some (.overlap, some 1) ∧
    setupFailure 0 ((setup.set 42 (mkWord [0x6000, place 2 28])).set 43 (mkWord [1024])) = some (.extra, some 5) ∧
    setupFailure 0 ((setup.set 42 (mkWord [0x6000, place 4 28])).set 43 (mkWord [64, place 1 24])) =
      some (.orphan, some 5) ∧
    setupFailure 0 (setup.set 40 0) = some (.missing, none) := by decide +kernel

/-- R24: memory's answer to a Port V read. -/
theorem test_upstreamEnd :
    let s := board.setPortM (some { owner := .port .v, addr := 0x9000, isWrite := false, words := [.load, .inside 3],
                                    orphan := false })
    (nextOf (exec (.upstreamAccessEnd (.done [5])) s)).map (fun t => (t.path.v.response, t.path.portM)) =
      some (some { code := .ok, data := [5, 3] }, none) := by decide +kernel

/-- R26: the response timer ends it NO-RESPONSE. -/
theorem test_responseTimer :
    let s := board.setPortM (some { owner := .port .h, addr := 0x9000, isWrite := true, words := [.store 1],
                                    orphan := false })
    (nextOf (exec .responseTimerExpiry s)).map (fun t => t.path.h.response.map (·.code)) =
      some (some .noResponse) := by decide +kernel

theorem test_lateAnswer : nextOf (exec (.lateMemoryAnswer (.done [])) board) = some board := rfl

/-- The board with the engine's access of a requester on Port M. -/
def ending (r : Requester) (s : State) : State :=
  s.setPortM (some { owner := .engine r, addr := 0x2038, isWrite := true, words := [.store 0], orphan := false })

/-- A handoff of the command assembler. -/
def handoff (isStop : Bool) : Handoff :=
  { record := { slot := 0, words := List.replicate 16 0, arrival := 100 }, disp := directiveAccepted,
    isStop := isStop }

/-- R40: the write-back empties the handoff stage. -/
theorem test_writebackEnd :
    let s := (ending (.writeBack .command) board).setAsm .command
      { Assembler.reset with handoff := some (handoff false) }
    (nextOf (exec .dispositionWritebackEnd s)).map (·.asm.command.handoff) = some none := by decide +kernel

/-- R169: the end of a STOP's write-back makes the part STOPPING with the STOPPED report staged. -/
theorem test_stopTakesEffect :
    let s := (ending (.writeBack .command) board).setAsm .command
      { Assembler.reset with handoff := some (handoff true) }
    (nextOf (exec .dispositionWritebackEnd s)).map
      (fun t => (t.unit.partState, t.report.staging.map (·.cause), t.lanes.l0.hold.state)) =
      some (.stopping, [.stopped], .off) := by decide +kernel

/-- R168 step 5, R26: the first header write of START ends NO-RESPONSE: it counts as a dropped report, and the second
is entered; a report staged meanwhile waits. -/
theorem test_startHeaderExpires :
    let r : Report := { cause := .stopped, lane := .none, ringSlot := none, field := 0, detail := [] }
    let s := (ending .report board).setReport { board.report with staging := [r], phase := .startDropped }
    (nextOf (exec .responseTimerExpiry s)).map
      (fun t => (t.report.phase, t.report.dropped, t.report.staging.length, t.path.portM.map (·.addr))) =
      some (.startProduce, 1, 1, some 0x5000) := by decide +kernel

/-- R125: a burst of one script record "HI" is placed. -/
theorem test_scriptBurst :
    let s := ending (.fetch .l0) (boardWith { lane0 with follower :=
      { Follower.reset with state := .cued, cue := some ⟨0, 1⟩,
                            fetch := some { first := 0, records := 1, left := 0, overtaken := false } } })
    (nextOf (exec (.scriptFetchBurstEnd (.done [2, 0x00490048, 0, 0, 0, 0, 0, 0])) s)).map
      (fun t => (t.lanes.l0.follower.buffer.map (·.text), t.lanes.l0.follower.fetch)) =
      some ([[0x48, 0x49]], none) := by decide +kernel

/-- R173: after a produce write the report leaves and the produce index advances. -/
theorem test_reportEnd :
    let r : Report := { cause := .stopped, lane := .none, ringSlot := none, field := 0, detail := [] }
    let s := (ending .report board).setReport
      { board.report with staging := [r], phase := .produce, produce := 7 }
    (nextOf (exec .reportAccessEnd s)).map (fun t => (t.report.produce, t.report.staging, t.report.phase)) =
      some (0, [], .idle) := by decide +kernel

theorem test_setupResultEnd : nextOf (exec .setupResultWriteEnd (ending .setupResult board)) = some board := by
  decide +kernel

/-- Lane 0 with a LOCKED follower at record 10 and a miss run. -/
def correcting (i : Nat) : Correcting :=
  { work := { lane := { lane0 with follower :=
                { Follower.reset with state := .locked, cue := some ⟨5, 20⟩, cursor := 10, missRun := 3 } },
              out := [] },
    reachable := 1, unreachable := 0, scripts := [i] }

/-- R115, R136: a step-back to record 9 restarts the follower there; one to record 11, above the cursor, is not made. -/
theorem test_stepBack :
    (let f := (setCursorBack (board.laneCtx .l0) (correcting 9)).work.lane.follower
     (f.cursor, f.fetchPoint, f.missRun, f.state) = (9, 9, 0, .locked)) ∧
    setCursorBack (board.laneCtx .l0) (correcting 11) = correcting 11 := by decide +kernel

/-- A record command's outcome and lane on the board. -/
def outcomeOf {α : Type} (i : Instr) (s : State) (f : Lane → α) (a : AsmId) : Option (Option Disposition × α) :=
  (nextOf (exec i s)).map fun t => (((t.asm.get a).handoff.map (·.disp)), f t.lanes.l0)

/-- R66, R83: a TOKEN of the floor pen is due D - L fields after its arrival. -/
theorem test_token : outcomeOf (.token .l0 0 (checked .token (record 7 1 2 0))) board
    (fun x => x.hold.queue) (.lane .l0) =
    some (some (acceptedOf 1 0),
      [{ tag := 0, due := 130, newline := false, speaker := false, text := [0x48, 0x49], script := none }]) := by
  decide +kernel

/-- R67: a TOKEN of the STANDBY pen is listed. -/
theorem test_tokenListed : outcomeOf (.token .l0 0 (checked .token (record 9 1 2 0))) board
    (fun x => x.pens.standby.map (·.tag)) (.lane .l0) = some (some (acceptedOf 2 0), [0]) := by decide +kernel

/-- R108: a CORRECT retracts a token from the hold queue. -/
theorem test_correct :
    let t : Tok := { tag := 3, due := 130, newline := false, speaker := false, text := [0x48], script := none }
    let x := { lane0 with
      hold := { lane0.hold with queue := [t], counters := { Counters.zero with admitted := 1, held := 1 } },
      recent := ⟨[3], []⟩ }
    outcomeOf (.correct .l0 0 (checked .correct (record 7 1 0 1))) (boardWith x)
      (fun x => (x.hold.queue, x.hold.counters.held, x.hold.counters.retracted)) (.lane .l0) =
      some (some (acceptedOf 1 0), ([], 0, 1)) := by decide +kernel

/-- R59: an OFFER of the floor pen. -/
theorem test_offer : outcomeOf (.offer .l0 0 (checked .offer (record 7 1 0 0))) board (·.pens.floor) (.lane .l0) =
    some (some (acceptedOf 1 0), .handover 125) := by decide +kernel

/-- R60: a TAKE while an offer stands, and one while none does. -/
theorem test_take :
    outcomeOf (.take .l0 0 (checked .take (record 9 1 0 0)))
      (boardWith { lane0 with pens := { lane0.pens with floor := .handover 125 } })
      (fun x => (x.pens.floor, x.pens.floorSlot)) (.lane .l0) =
      some (some (acceptedOf 1 0), (.steady, some .b)) ∧
    outcomeOf (.take .l0 0 (checked .take (record 9 1 0 0))) board
      (fun x => (x.pens.floor, x.pens.floorSlot)) (.lane .l0) =
      some (some { outcome := .refusedRole, detail := 1, gap := false, health := some .good },
        (.steady, some .a)) := by decide +kernel

/-- R53: a KEEPALIVE with two numbers missing is a gap and a bad record. -/
theorem test_keepalive :
    outcomeOf (.keepalive .l0 0 (checked .keepalive (record 7 4 0 0)))
      (boardWith { lane0 with pens := { lane0.pens with slots := ⟨{ penOf 7 .floor with base := some 1 }, .empty⟩ } })
      (·.pens.slots.a.fault) (.lane .l0) =
      some (some { outcome := .acceptedGap, detail := 0, gap := true, health := some .good }, 5) := by decide +kernel

/-- LANE-SET parameters in range, for lane 0. -/
def laneSet : LaneSetFields :=
  { lane := 0, d := 60, lmax := 40, initial := 30, s := 2, g := 10, q := 100, takeWindow := 25, c := 4, r := 3,
    w := 32, stale := 20, corrMarker := 0x002D002D, spkMarker := 0x003E003E, check := 0 }

/-- LANE-SET parameters with their right check value. -/
def laneSetChecked (enable : Bool) (p : LaneSetFields) : LaneSetFields :=
  { p with check := recordCheck (laneSetWords enable p) }

/-- R88, R81: a LANE-SET enables lane 0. -/
theorem test_laneSetEnable :
    outcomeOf (.laneSetEnable 0 (laneSetChecked true laneSet)) (boardWith Lane.reset)
      (fun x => (x.hold.state, x.tracker.l, x.tracker.d, x.tracker.hardAlign)) .command =
      some (some directiveAccepted, (.run, 30, 60, true)) := by decide +kernel

/-- R89: a LANE-SET disables it. -/
theorem test_laneSetDisable :
    outcomeOf (.laneSetDisable 0 (laneSetChecked false laneSet)) board (·.hold.state) .command =
      some (some directiveAccepted, .off) := by decide +kernel

/-- R51: a PEN-SET of an empty slot, and of the floor slot with another pen. -/
theorem test_penSet :
    let c := recordCheck (directiveWords .penSet (mkWord [0, 0, 0]) (mkWord [5]) [] 0)
    outcomeOf (.penSet 0 0 false false 5 c) (boardWith { lane0 with pens := Pens.reset })
      (fun x => (x.pens.slots.a.pen, x.pens.slots.a.role)) .command = some (some directiveAccepted, (5, .standby)) ∧
    outcomeOf (.penSet 0 0 false false 5 c) board (fun x => (x.pens.slots.a.pen, x.pens.slots.a.role)) .command =
      some (some (directiveRefused 3), (7, .floor)) := by decide +kernel

/-- R121: a CUE that ends at the window's end, and one that ends past it. -/
theorem test_cue :
    let c := fun n => recordCheck (directiveWords .cue (mkWord [0]) (mkWord [60, place n 16]) [] 0)
    outcomeOf (.cue 0 0 60 4 (c 4)) board (fun x => (x.follower.state, x.follower.cursor)) .command =
      some (some directiveAccepted, (.cued, 60)) ∧
    outcomeOf (.cue 0 0 60 5 (c 5)) board (fun x => (x.follower.state, x.follower.cursor)) .command =
      some (some (directiveRefused 5), (.none, 0)) := by decide +kernel

/-- R122: an UNCUE. -/
theorem test_uncue :
    outcomeOf (.uncue 0 0 (recordCheck (directiveWords .uncue (mkWord [0]) 0 [] 0)))
      (boardWith { lane0 with follower := { Follower.reset with state := .locked, cue := some ⟨0, 9⟩, cursor := 4 } })
      (fun x => (x.follower.state, x.follower.cursor)) .command =
      some (some directiveAccepted, (.none, 0)) := by decide +kernel

/-- R162: a LINK of an unheld lane, and mode 3. -/
theorem test_link :
    let c := fun n => recordCheck (directiveWords .link (mkWord [0]) (mkWord [n]) [] 0)
    outcomeOf (.link 0 0 2 (c 2)) board (·.link) .command = some (some directiveAccepted, .hard) ∧
    outcomeOf (.link 0 0 3 (c 3)) board (·.link) .command = some (some (directiveRefused 2), .none) := by
  decide +kernel

/-- R156: an OVERRIDE that repeats the flag's value is accepted. -/
theorem test_override :
    outcomeOf (.override 0 false (recordCheck (directiveWords .override 0 (mkWord [0]) [] 0))) board
      (·.hold.state) .command = some (some directiveAccepted, .run) := by decide +kernel

/-- R158, R159: a soft hold starts and ends at a lane. -/
theorem test_softHold :
    let c := board.laneCtx .l0
    let w := softHoldStart c .directive ⟨{ lane0 with link := .soft }, []⟩
    w.lane.hold.state = .softHeld ∧ w.lane.composer.pendingClear = true ∧ w.out.length = 1 ∧
      (softHoldEnd c .directive w).lane.hold.state = .run := by decide +kernel

/-- R98: a FLUSH discards a held token. -/
theorem test_flush :
    let t : Tok := { tag := 3, due := 130, newline := false, speaker := false, text := [0x48], script := none }
    let x := { lane0 with
      hold := { lane0.hold with queue := [t], counters := { Counters.zero with admitted := 1, held := 1 } } }
    outcomeOf (.flush 0 0 (recordCheck (directiveWords .flush (mkWord [0]) 0 [] 0))) (boardWith x)
      (fun x => (x.hold.queue, x.hold.counters.held, x.hold.counters.discFlush)) .command =
      some (some directiveAccepted, ([], 0, 1)) := by decide +kernel

/-- R56: a RESTORE of a slot with faults, and of an empty one. -/
theorem test_restore :
    let c := recordCheck (directiveWords .restore (mkWord [0, place 1 8]) 0 [] 0)
    outcomeOf (.restore 0 0 true c)
      (boardWith { lane0 with pens := { lane0.pens with
        slots := ⟨penOf 7 .floor, { penOf 9 .standby with fault := 200 }⟩ } })
      (·.pens.slots.b.fault) .command = some (some directiveAccepted, 0) ∧
    outcomeOf (.restore 0 0 true c)
      (boardWith { lane0 with pens := { lane0.pens with slots := ⟨penOf 7 .floor, .empty⟩ } })
      (·.pens.slots.b.fault) .command = some (some (directiveRefused 2), 0) := by decide +kernel

/-- R171: a SNAPSHOT is staged and its first record entered. -/
theorem test_snapshot :
    (nextOf (exec (.snapshot 0 0 (recordCheck (directiveWords .snapshot (mkWord [0]) 0 [] 0))) board)).map
      (fun t => (t.report.staging.map (·.records), t.report.phase)) = some ([7], .record 0) := by decide +kernel

/-- R169: a STOP is accepted and marked. -/
theorem test_stop :
    (nextOf (exec (.stop 0 (recordCheck (directiveWords .stop 0 0 [] 0))) board)).map
      (fun t => (t.unit.partState, t.asm.command.handoff.map (·.isStop))) = some (.running, some true) := by
  decide +kernel

/-! ## Witnesses: the hypotheses of each obligation are met -/

/-- A part with the board's paths, engine and assemblers, running. -/
structure Board (s : State) : Prop where
  running : s.unit.partState = .running
  path : s.path = board.path
  engine : s.engine = board.engine
  asm : s.asm = board.asm

theorem board_is (x : Lane) : Board (boardWith x) := ⟨rfl, rfl, rfl, rfl⟩

/-- The windows of the board, by address. -/
theorem Board.region {s : State} (B : Board s) (a : Addr) : s.regionOf a =
    if ingestWin.covers a then .window ingestWin
    else if commandWin.covers a then .window commandWin
    else if cueWin.covers a then .window cueWin
    else if airWin.covers a then .window airWin
    else if reportWin.covers a then .window reportWin
    else .outside := by
  unfold State.regionOf
  rw [B.running, B.path]
  show (match findWindow _ _ with | some w => Region.window w | none => .outside) = _
  simp only [board, boardWith, List.cons_append, List.nil_append, findWindow, List.findSome?_cons]
  by_cases h1 : ingestWin.covers a = true
  · simp [h1]
  · by_cases h2 : commandWin.covers a = true
    · simp [h1, h2]
    · by_cases h3 : cueWin.covers a = true
      · simp [h1, h2, h3]
      · by_cases h4 : airWin.covers a = true
        · simp [h1, h2, h3, h4]
        · by_cases h5 : reportWin.covers a = true
          · simp [h1, h2, h3, h4, h5]
          · simp [h1, h2, h3, h4, h5]

theorem covers_ingest (a : Addr) : ingestWin.covers a = true ↔ 4096 ≤ a.toNat ∧ a.toNat < 5120 := by
  simp [Window.covers, ingestWin]
theorem covers_command (a : Addr) : commandWin.covers a = true ↔ 8192 ≤ a.toNat ∧ a.toNat < 9216 := by
  simp [Window.covers, commandWin]
theorem covers_cue (a : Addr) : cueWin.covers a = true ↔ 12288 ≤ a.toNat ∧ a.toNat < 14336 := by
  simp [Window.covers, cueWin]
theorem covers_air (a : Addr) : airWin.covers a = true ↔ 16384 ≤ a.toNat ∧ a.toNat < 16448 := by
  simp [Window.covers, airWin]
theorem covers_report (a : Addr) : reportWin.covers a = true ↔ 20480 ≤ a.toNat ∧ a.toNat < 20768 := by
  simp [Window.covers, reportWin]

/-- Each address of a window of the board is in that window alone. -/
theorem Board.alone {s : State} (B : Board s) (w : Window)
    (h : w = ingestWin ∨ w = commandWin ∨ w = airWin ∨ w = reportWin) (a : Addr) (hc : w.covers a = true) :
    s.regionOf a = .window w := by
  rw [B.region]
  rcases h with rfl | rfl | rfl | rfl
  · rw [if_pos hc]
  · have h := (covers_command a).1 hc
    rw [if_neg (mt (covers_ingest a).1 (by omega)), if_pos hc]
  · have h := (covers_air a).1 hc
    rw [if_neg (mt (covers_ingest a).1 (by omega)), if_neg (mt (covers_command a).1 (by omega)),
      if_neg (mt (covers_cue a).1 (by omega)), if_pos hc]
  · have h := (covers_report a).1 hc
    rw [if_neg (mt (covers_ingest a).1 (by omega)), if_neg (mt (covers_command a).1 (by omega)),
      if_neg (mt (covers_cue a).1 (by omega)), if_neg (mt (covers_air a).1 (by omega)), if_pos hc]

theorem Board.ingest {s : State} (B : Board s) : Ready (.lane .l0) 3 ingestWin s :=
  { running := B.running, idle := by rw [B.path]; rfl, free := by rw [B.path]; rfl, noV := by rw [B.path]; rfl,
    noEntry := by rw [B.engine]; rfl, window := by unfold State.ringWindow State.windowOf; rw [B.path]; rfl,
    slotIn := by decide, top := by decide, alone := B.alone _ (.inl rfl), stage := by rw [B.asm]; rfl,
    handoff := by rw [B.asm]; rfl }

theorem Board.command {s : State} (B : Board s) : Ready .command 15 commandWin s :=
  { running := B.running, idle := by rw [B.path]; rfl, free := by rw [B.path]; rfl, noV := by rw [B.path]; rfl,
    noEntry := by rw [B.engine]; rfl, window := by unfold State.ringWindow State.windowOf; rw [B.path]; rfl,
    slotIn := by decide, top := by decide, alone := B.alone _ (.inr (.inl rfl)), stage := by rw [B.asm]; rfl,
    handoff := by rw [B.asm]; rfl }

theorem Board.quiet {s : State} (B : Board s) : s.NoneWaits := by
  intro _; rw [B.path, B.engine]; exact ⟨rfl, rfl, rfl⟩

/-- A heard record on the board, with its right check value. -/
theorem Board.heard {s : State} (B : Board s) {kind : IngestKind} {k : SlotId} {r : IngestFields}
    (ht : r.text.length = 10) (hf : GoodForm kind r) (on : (s.lanes.get .l0).hold.state ≠ .off)
    (hp : (s.lanes.get .l0).pens.slotOf r.pen = some k) :
    ∃ c, Heard kind .l0 3 ingestWin k { r with check := c } s := by
  obtain ⟨c, hc⟩ : ∃ c, c = recordCheck (ingestWords kind r) := ⟨_, rfl⟩
  refine ⟨c, B.ingest, rfl, ht, ?_, ⟨hf.length, hf.argument, hf.chars⟩, on, hp⟩
  rw [recordCheck_ingest kind r c ht, ← hc]

/-- A heard record in sequence. -/
theorem Board.inOrder {s : State} (B : Board s) {kind : IngestKind} {k : SlotId} {r : IngestFields}
    (ht : r.text.length = 10) (hf : GoodForm kind r) (on : (s.lanes.get .l0).hold.state ≠ .off)
    (hp : (s.lanes.get .l0).pens.slotOf r.pen = some k)
    (hb : ((s.lanes.get .l0).pens.slots.get k).base = none)
    (hu : ((s.lanes.get .l0).pens.slots.get k).fault < 200) :
    ∃ c, InOrder kind .l0 3 ingestWin k { r with check := c } s := by
  obtain ⟨c, hc⟩ := B.heard ht hf on hp
  exact ⟨c, hc, .inl hb, hu⟩

theorem typed_record (pen seq : Half) :
    (charsOf (record pen seq 2 0).text).take (record pen seq 2 0).length.toNat = [0x48, 0x49] := by
  have e : (charsOf (0x00490048 :: List.replicate 9 0)).take 2 = [0x48, 0x49] := by decide +kernel
  exact e

theorem goodToken (pen seq : Half) : GoodForm .token (record pen seq 2 0) := by
  refine ⟨?_, ?_, ?_⟩
  · rw [if_pos rfl]; show 1 ≤ (2#5).toNat ∧ (2#5).toNat ≤ 20; decide
  · intro h; cases h
  · intro ch h
    rw [typed_record, List.mem_cons, List.mem_singleton] at h
    rcases h with rfl | rfl <;> decide

theorem goodCorrect (pen seq : Half) : GoodForm .correct (record pen seq 0 1) :=
  ⟨by show (0#5).toNat = 0; rfl, by intro _; exact ⟨by show 1 ≤ (1#4).toNat; decide, by show (1#4).toNat ≤ 8; decide⟩,
    by intro ch h; exact absurd h (by show ch ∉ ([] : List Half); simp)⟩

theorem goodPlain {kind : IngestKind} (h1 : kind ≠ .token) (h2 : kind ≠ .correct) (pen seq : Half) :
    GoodForm kind (record pen seq 0 0) :=
  ⟨by rw [if_neg h1]; rfl, fun h => absurd h h2,
    by intro ch h; exact absurd h (by show ch ∉ ([] : List Half); simp)⟩

/-- A lane like lane 0 whose pens are pen 7 on the floor and pen 9 standing by, not barred. -/
theorem floorOk_lane0 : lane0.FloorOk :=
  { single := by decide, vacant := by decide, empty := by intro k; cases k <;> decide,
    barred := by intro k; cases k <;> decide, distinct := by decide, fault := by intro k; cases k <;> decide,
    shadow := by intro e h; cases h }

/-- Lane 0 with the hold queue replaced. -/
def lane0Hold (h : Hold) : Lane := { lane0 with hold := h }
/-- Lane 0 with the pens replaced. -/
def lane0Pens (p : Pens) : Lane := { lane0 with pens := p }
/-- A held token. -/
def heldTok (tag : Half) : Tok :=
  { tag := tag, due := 130, newline := false, speaker := false, text := [0x48], script := none }
/-- A standby entry of slot B. -/
def listed (tag : Half) : StandbyEntry :=
  { tag := tag, slot := .b, arrival := 99, newline := false, speaker := false, text := [0x48] }

/-! ### Queue, reset, lines -/

theorem witness_StepRunsTheFrontCommand :
    (board.withPending [.responseTimerExpiry]).pending = .responseTimerExpiry :: [] ∧ board.pending = [] :=
  ⟨rfl, rfl⟩

theorem witness_EveryWellFormedCommandAnswersNext :
    Instr.wf (.stop 255 0) = true ∧ Instr.wf (.stop 256 0) = false := by decide

/-- The board with a Port H access and an engine entry waiting. -/
def contest (served : Served) : State :=
  { board with
    path :=
      { board.path with
        lastServed := served,
        h := { board.path.h with state := .waiting { addr := 0x9000, xfer := .read 1 } } },
    engine := { requests := [{ requester := .setupResult, addr := 4, xfer := .write [0] }], deferred := [] } }

theorem witness_LastServedFromTie (served : Served) : (contest served).path.portM = none ∧
    (contest served).path.v.waiting? = none ∧
    (contest served).path.h.waiting? = some { addr := 0x9000, xfer := .read 1 } ∧
    (contest served).frontEntry = some { requester := .setupResult, addr := 4, xfer := .write [0] } ∧
    (contest served).urgent { requester := .setupResult, addr := 4, xfer := .write [0] } = false :=
  ⟨rfl, rfl, rfl, rfl, rfl⟩

theorem witness_UnloadedTimerIgnoresLines : State.reset.timer.timing = none := rfl

/-- The board with its Field Timer changed. -/
def withTimer (f : FieldTimer → FieldTimer) : State := { board with timer := f board.timer }

theorem withTimer_is (f : FieldTimer → FieldTimer) : Board (withTimer f) := ⟨rfl, rfl, rfl, rfl⟩

theorem witness_RealFpStartsField (r : RefState) :
    (withTimer fun t => { t with refState := r }).timer.timing = some timing ∧
    (withTimer fun t => { t with refState := r }).NoneWaits := ⟨rfl, (withTimer_is _).quiet⟩

theorem witness_RealLpAdvancesLine (n : Nat) :
    let s := withTimer fun t => { t with field := some { n := n, parity := .odd, origin := .real, composeRaised := false } }
    s.timer.timing = some timing ∧ s.NoneWaits := ⟨rfl, (withTimer_is _).quiet⟩

theorem witness_LostLineIsSynthesised :
    (let s := withTimer fun t => { t with refState := .lineLost, lineTimerRunning := true, absenceRunning := false }
     s.timer.timing = some timing ∧ s.NoneWaits ∧ s.timer.refState = .lineLost ∧ s.timer.lineTimerRunning = true) ∧
    (board.timer.timing = some timing ∧ board.NoneWaits ∧ board.timer.refState ≠ .lineLost ∧
      board.timer.absenceRunning = true) :=
  ⟨⟨rfl, (withTimer_is _).quiet, rfl, rfl⟩, rfl, (board_is lane0).quiet, by decide, rfl⟩

/-- Lane 0 with NEXT composed. -/
def lane0Composed : Lane := { lane0 with composer := { lane0.composer with composed := true } }

theorem witness_FieldStartSwapsPackets : (boardWith lane0Composed).timer.timing = some timing ∧
    (boardWith lane0Composed).NoneWaits ∧ (boardWith lane0Composed).composing .l0 = true ∧
    ((boardWith lane0Composed).lanes.get .l0).composer.composed = true := ⟨rfl, (board_is _).quiet, by decide, rfl⟩

theorem witness_ComposeAtLineK :
    let c : CurrentField := { n := 299, parity := .odd, origin := .real, composeRaised := false }
    let s := withTimer fun t => { t with field := some c }
    s.timer.timing = some timing ∧ s.NoneWaits ∧ s.timer.field = some c ∧ c.n + 1 < timing.threshold c ∧
      c.n + 1 = timing.k ∧ c.composeRaised = false ∧ s.composing .l0 = true ∧
      (s.lanes.get .l0).composer.composed = false :=
  ⟨rfl, (withTimer_is _).quiet, rfl, by decide, rfl, rfl, by decide, rfl⟩

theorem witness_ReleaseMovesDueHeads : lane0.hold.state = .run ∧ lane0.composer.emission.length ≤ 48 ∧
    (List.replicate 48 (tokenEntry (heldTok 1))).length ≤ 48 ∧ Lane.reset.hold.state ≠ .run := by decide

/-! ### The Memory Path and ends -/

theorem witness_ArbiterOrder :
    (∃ m, (ending .report board).path.portM = some m) ∧
    (let p := { (contest .engine).path with v := { board.path.v with state := .waiting { addr := 0x9000, xfer := .read 1 } } }
     let s := { contest .engine with path := p }
     s.path.portM = none ∧ ∃ x, s.path.v.waiting? = some x) ∧
    (let e : Engine := { requests := [{ requester := .report, addr := 4, xfer := .write [0] }], deferred := [] }
     let one : Report := { cause := .stopped, lane := .none, ringSlot := none, field := 0, detail := [] }
     let s := { contest .engine with engine := e, report := { board.report with staging := List.replicate 6 one } }
     s.path.portM = none ∧ s.path.v.waiting? = none ∧
      ∃ q, s.frontEntry = some q ∧ s.urgent q = true) ∧
    (let s := { contest .engine with path := board.path }
     s.path.portM = none ∧ s.path.v.waiting? = none ∧ s.path.h.waiting? = none ∧ ∃ q, s.frontEntry = some q) ∧
    (let s := { contest .engine with engine := board.engine }
     s.path.portM = none ∧ s.path.v.waiting? = none ∧ s.frontEntry = none ∧ ∃ x, s.path.h.waiting? = some x) ∧
    (board.path.portM = none ∧ board.path.v.waiting? = none ∧ board.path.h.waiting? = none ∧
      board.engine.requests = []) :=
  ⟨⟨_, rfl⟩, ⟨rfl, _, rfl⟩, ⟨rfl, rfl, _, rfl, by decide⟩, ⟨rfl, rfl, rfl, _, rfl⟩, ⟨rfl, rfl, rfl, _, rfl⟩,
    rfl, rfl, rfl, rfl⟩

theorem witness_UpstreamAccessWaitsOrIsGranted :
    (let s := ending .report board
     let x : Access := { addr := 0xFFFFFC0, xfer := .read 16 }
     x.wf = true ∧ (s.portUnit .h).state = .idle ∧ (∃ m, s.path.portM = some m) ∧ s.unit.partState ≠ .stopping ∧
      accessNeedsMemory .h x s = true) ∧
    (let x : Access := { addr := 0x9000, xfer := .write [1, 2] }
     x.wf = true ∧ (board.portUnit .v).state = .idle ∧ board.path.portM = none ∧ board.NoneWaits ∧
      board.unit.partState ≠ .stopping ∧
      ∀ i, i < x.xfer.count → board.regionOf (wordAddr x.addr i) = .outside) :=
  ⟨⟨by decide, rfl, ⟨_, rfl⟩, by decide, by decide +kernel⟩, by decide, rfl, rfl, (board_is lane0).quiet, by decide,
    by intro i hi
       have : i = 0 ∨ i = 1 := by
         have : i < 2 := hi
         omega
       rcases this with rfl | rfl <;> decide +kernel⟩

theorem witness_PortVWriteIntoWindowsIsRefused :
    let x : Access := { addr := 0x13FC, xfer := .write [1] }
    x.wf = true ∧ x.xfer = .write [1] ∧ board.path.v.state = .idle ∧ board.NoneWaits ∧
      board.unit.partState = .running ∧
      ∀ i, i < ([1] : List Word).length → ∃ w, board.regionOf (wordAddr x.addr i) = .window w :=
  ⟨by decide, rfl, rfl, (board_is lane0).quiet, rfl, by
    intro i hi
    have : i = 0 := by simpa using hi
    subst this
    exact ⟨ingestWin, by decide +kernel⟩⟩

theorem witness_AirBurstReturnsActive : 1 ≤ 16 ∧ 16 ≤ 16 ∧ board.path.v.state = .idle ∧ board.NoneWaits ∧
    board.unit.partState = .running ∧ board.windowOf .air (some .l0) = some airWin ∧ airWin.length = 64 ∧
    airWin.base.toNat + 64 ≤ 2 ^ 28 ∧
    (∀ a : Addr, airWin.covers a = true → board.regionOf a = .window airWin) ∧
    (board.lanes.get .l0).composer.missed = false ∧ (board.lanes.get .l0).composer.unopened ≠ 3 :=
  ⟨by decide, by decide, rfl, (board_is lane0).quiet, rfl, rfl, rfl, by decide,
    (board_is lane0).alone _ (.inr (.inr (.inl rfl))), rfl, by decide⟩

theorem witness_ConsumeIndexIsTaken : board.path.h.state = .idle ∧ board.path.portM = none ∧ board.NoneWaits ∧
    board.unit.partState = .running ∧ board.windowOf .report none = some reportWin ∧
    reportWin.base.toNat + 8 ≤ 2 ^ 28 ∧ board.regionOf (reportWin.base + 4) = .window reportWin :=
  ⟨rfl, rfl, (board_is lane0).quiet, rfl, rfl, by decide, by decide +kernel⟩

/-- The part before START with the setup copy of `setup`. -/
def ready : State := { State.reset with unit := { State.reset.unit with setupCopy := setup } }

theorem witness_StartLoadsOrRefuses (s : State) (h : s = ready ∨ s = State.reset) :
    ([] : List Word).length ≤ 15 ∧ s.unit.partState = .setup ∧ s.SetupOk ∧ s.path.h.state = .idle ∧
    s.path.portM = none ∧ s.NoneWaits ∧
    (s = ready → setupFailure s.bootBase ([1] ++ s.unit.setupCopy.drop 1) = none) ∧
    (s = State.reset → ∃ f, setupFailure s.bootBase ([1] ++ s.unit.setupCopy.drop 1) = some f) := by
  rcases h with rfl | rfl
  · refine ⟨by decide, rfl, by unfold State.SetupOk; decide +kernel, rfl, rfl, fun _ => ⟨rfl, rfl, rfl⟩,
      fun _ => by decide +kernel, fun h => ?_⟩
    exact absurd (congrArg (·.unit.setupCopy) h) (by decide +kernel)
  · refine ⟨by decide, rfl, by unfold State.SetupOk; decide +kernel, rfl, rfl, fun _ => ⟨rfl, rfl, rfl⟩, fun h => ?_,
      fun _ => ⟨(.value, none), by decide +kernel⟩⟩
    exact absurd (congrArg (·.unit.setupCopy) h) (by decide +kernel)

theorem witness_LoadedWindowsAreDisjoint : setupFailure 0 setup = none ∧
    (readWindows setup)[0]? = some (some ingestWin) ∧ (readWindows setup)[1]? = some (some commandWin) ∧
    (0 : Nat) ≠ 1 := by decide +kernel

/-- The board with a port's access on Port M. -/
def portEnds (p : Port) (isWrite : Bool) : State :=
  board.setPortM (some { owner := .port p, addr := 0x9000, isWrite := isWrite,
                         words := if isWrite then [.store 1, .masked] else [.load], orphan := false })

theorem witness_UpstreamAccessEnds (p : Port) (isWrite : Bool) :
    (∃ m, (portEnds p isWrite).path.portM = some m ∧ m.owner = .port p) ∧ (portEnds p isWrite).PortsQuiet ∧
    (portEnds p isWrite).engine.requests = [] ∧ (portEnds p isWrite).unit.partState ≠ .stopping :=
  ⟨⟨_, rfl, rfl⟩, ⟨rfl, rfl⟩, rfl, by show PartState.running ≠ _; decide⟩

theorem witness_ResponseTimerAndLateAnswer (p : Port) : board.path.portM = none ∧
    (∃ m, (portEnds p true).path.portM = some m ∧ m.owner = .port p) ∧ (portEnds p true).PortsQuiet ∧
    (portEnds p true).engine.requests = [] ∧ (portEnds p true).unit.partState ≠ .stopping :=
  ⟨rfl, ⟨_, rfl, rfl⟩, ⟨rfl, rfl⟩, rfl, by show PartState.running ≠ _; decide⟩

theorem ending_is {s : State} (B : Board s) (r : Requester) :
    ∃ m, EngineEnds r m (ending r s) :=
  ⟨_, { onPortM := rfl, owner := rfl, wanted := rfl, running := B.running,
        quiet := ⟨by show s.path.h.waiting? = none; rw [B.path]; rfl,
                  by show s.path.v.waiting? = none; rw [B.path]; rfl⟩ }⟩

/-- The board with the command assembler's handoff and stage as given. -/
def withHandoff (isStop : Bool) (stage : Stage) : State :=
  (ending (.writeBack .command) board).setAsm .command
    { Assembler.reset with handoff := some (handoff isStop), stage := stage }

theorem witness_WritebackEmptiesHandoff (stage : Stage) :
    (∃ m, EngineEnds (.writeBack .command) m (withHandoff false stage)) ∧
    ((withHandoff false stage).asm.get .command).handoff = some (handoff false) ∧
    (handoff false).isStop = false ∧ ((withHandoff false stage).asm.get .command).stage = stage ∧
    ∀ q ∈ (withHandoff false stage).engine.requests, q.requester ≠ .writeBack .command :=
  ⟨⟨_, { onPortM := rfl, owner := rfl, wanted := rfl, running := rfl, quiet := ⟨rfl, rfl⟩ }⟩, rfl, rfl, rfl,
    fun _ h => (by cases h)⟩

theorem witness_StopTakesEffectAtItsWriteback :
    (∃ m, EngineEnds (.writeBack .command) m (withHandoff true .empty)) ∧
    (withHandoff true .empty).asm.command.handoff = some (handoff true) ∧ (handoff true).isStop = true ∧
    1 ≤ (withHandoff true .empty).report.freeRecords :=
  ⟨⟨_, { onPortM := rfl, owner := rfl, wanted := rfl, running := rfl, quiet := ⟨rfl, rfl⟩ }⟩, rfl, rfl, by decide⟩

/-- Lane 0 with a fetch of one record in flight. -/
def fetching : Lane :=
  { lane0 with follower :=
    { Follower.reset with state := .cued, cue := some ⟨0, 1⟩,
                          fetch := some { first := 0, records := 1, left := 0, overtaken := false } } }

theorem witness_ScriptBurstIsPlaced :
    (∃ m, EngineEnds (.fetch .l0) m (ending (.fetch .l0) (boardWith fetching))) ∧
    ((ending (.fetch .l0) (boardWith fetching)).lanes.get .l0).follower.fetch =
      some { first := 0, records := 1, left := 0, overtaken := false } ∧
    (∃ rs : List ScriptRec, burstRecords 1 [2, 0x00490048, 0, 0, 0, 0, 0, 0] = rs.map some) ∧
    none ∈ burstRecords 1 [15, 0x00490048, 0, 0, 0, 0, 0, 0] :=
  ⟨ending_is (board_is _) _, rfl,
    ⟨[{ newline := false, speaker := false, text := [0x48, 0x49], key := matchKey [0x48, 0x49] }], by decide +kernel⟩,
    by decide +kernel⟩

/-- A report of one record. -/
def stopped : Report := { cause := .stopped, lane := .none, ringSlot := none, field := 0, detail := [] }
/-- A report of seven. -/
def snapshotReport : Report := { stopped with cause := .snapshot }

/-- Where the writer goes on, a further report with room is begun, and one without is dropped. -/
theorem witness_ReportWriterAdvances (phase : WriterPhase) (dropped : Counter) (r : Report) (rs : List Report) :
    let s := (ending .report board).setReport
      { board.report with staging := r :: rs, phase := phase, dropped := dropped }
    (∃ m, EngineEnds .report m s) ∧ (∀ q ∈ s.engine.requests, q.requester ≠ .report) ∧
      s.report.staging = r :: rs ∧ s.report.phase = phase ∧
      s.report.dropped = dropped ∧ s.report.lastDropped = 0 ∧ 5 + 1 < snapshotReport.records ∧
      ¬ 6 + 1 < snapshotReport.records ∧ ¬ 0 + 1 < stopped.records ∧
      { board.report with staging := [snapshotReport] }.begun.staging = [snapshotReport] ∧
      { board.report with staging := [snapshotReport], consume := 7 }.begun.staging = [] :=
  ⟨⟨_, { onPortM := rfl, owner := rfl, wanted := rfl, running := rfl, quiet := ⟨rfl, rfl⟩ }⟩,
    fun _ h => (by cases h), rfl, rfl, rfl, rfl, by decide, by decide, by decide, by decide, by decide⟩

theorem witness_SetupResultEndsQuietly :
    (∃ m, (ending .setupResult board).path.portM = some m ∧ m.owner = .engine .setupResult) ∧
    (ending .setupResult board).PortsQuiet ∧ (ending .setupResult board).unit.partState ≠ .stopping ∧
    (ending .setupResult board).engine.requests = [] ∧ (ending .setupResult board).engine.deferred = [] :=
  ⟨⟨_, rfl, rfl⟩, ⟨rfl, rfl⟩, by show PartState.running ≠ _; decide, rfl, rfl⟩

/-! ### Records -/

theorem witness_RecordsAreProcessedInOneBurst :
    (∃ ws, recordOf (.token .l0 3 (record 7 1 2 0)) = some (.lane .l0, 3, ws)) ∧
    Instr.wf (.token .l0 3 (record 7 1 2 0)) = true ∧ Ready (.lane .l0) 3 ingestWin board ∧
    (∃ ws, recordOf (.stop 15 0) = some (.command, 15, ws)) ∧ Instr.wf (.stop 15 0) = true ∧
    Ready .command 15 commandWin board :=
  ⟨⟨_, rfl⟩, rfl, (board_is lane0).ingest, ⟨_, rfl⟩, rfl, (board_is lane0).command⟩

theorem witness_RefusedDirectivesChangeNothing :
    (Ready .command 15 commandWin board ∧ Instr.wf (.flush 15 0 0) = true ∧
      ¬ rightCheck (directiveWords .flush (laneWord 0) 0 [] 0)) ∧
    (∀ lane : BitVec 8, lane = 4 ∨ lane = 1 →
      (∃ c, rightCheck (directiveWords .flush (laneWord lane) 0 [] c)) ∧
      ∀ l, field (wordAt (directiveWords .flush (laneWord lane) 0 [] 0) 1) 0 8 = laneNum l →
        board.windowOf .ingest (some l) = none) ∧
    (∀ p : LaneSetFields, p = { laneSet with d := 0 } ∨ p = { laneSet with lmax := 61 } →
      (p.d = 0 ∨ p.d.toNat < p.lmax.toNat) ∧ Directed 15 commandWin p.lane .l0 board) := by
  refine ⟨⟨(board_is lane0).command, rfl, by unfold rightCheck; decide +kernel⟩, ?_, ?_⟩
  · intro lane h
    constructor
    · obtain ⟨c, hc⟩ := directive_check .flush (laneWord lane) 0 [] (by decide)
      refine ⟨c, ?_⟩
      unfold rightCheck
      rw [← hc, directiveWords_15 .flush (laneWord lane) 0 c (by decide), lowHalf_mkWord]
    · rcases h with rfl | rfl <;> intro l <;> cases l <;> decide +kernel
  · rintro p (rfl | rfl)
    · exact ⟨.inl rfl, ⟨(board_is lane0).command, rfl, rfl, rfl⟩⟩
    · exact ⟨.inr (by decide), ⟨(board_is lane0).command, rfl, rfl, rfl⟩⟩

theorem witness_LaneOffAndStrangerChangeNothing :
    (Ready (.lane .l0) 3 ingestWin (boardWith .reset) ∧ ((boardWith .reset).lanes.get .l0).hold.state = .off) ∧
    (Ready (.lane .l0) 3 ingestWin board ∧ (board.lanes.get .l0).hold.state ≠ .off ∧
      rightCheck (ingestWords .keepalive (checked .keepalive (record 5 1 0 0))) ∧
      GoodForm .keepalive (record 5 1 0 0) ∧ (board.lanes.get .l0).pens.slotOf 5 = none) :=
  ⟨⟨(board_is .reset).ingest, rfl⟩, (board_is lane0).ingest, by decide, by unfold rightCheck; decide +kernel,
    goodPlain (by decide) (by decide) 5 1, by decide⟩

/-- The board with the pen of slot A at a fault count. -/
def faulty (n : Nat) : State :=
  boardWith (lane0Pens { lane0.pens with slots := ⟨{ penOf 7 .floor with fault := n }, penOf 9 .standby⟩ })

theorem witness_BadCheckIsCharged (n : Nat) (h : n = 0 ∨ n = 44 ∨ n = 200) :
    Ready (.lane .l0) 3 ingestWin (faulty n) ∧ Instr.wf (.keepalive .l0 3 (record 7 1 0 0)) = true ∧
    ¬ rightCheck (ingestWords .keepalive (record 7 1 0 0)) ∧ ((faulty n).lanes.get .l0).hold.state ≠ .off ∧
    ((faulty n).lanes.get .l0).pens.slotOf 7 = some .a ∧
    healthOf (if healthOf n = .barred then n else min 200 (n + 5)) = healthOf n := by
  refine ⟨(board_is _).ingest, rfl, by unfold rightCheck; decide +kernel,
    by show LaneState.run ≠ _; decide, rfl, ?_⟩
  rcases h with rfl | rfl | rfl <;> decide

/-- Lane 0 with 127 held tokens. -/
def lane0Full : Lane := lane0Hold { lane0.hold with queue := List.replicate 127 (heldTok 1) }

theorem witness_TokenIsAdmitted : (∃ c, InOrder .token .l0 3 ingestWin .a { (record 7 1 2 0) with check := c } (boardWith lane0Full)) ∧
    lane0Full.FloorOk ∧ (lane0Full.pens.slots.get .a).role = .floor ∧ lane0Full.hold.state ≠ .hardHeld ∧
    lane0Full.hold.queue.length < 128 ∧ lane0Full.follower.state ≠ .cued ∧ lane0Full.follower.state ≠ .locked :=
  ⟨(board_is lane0Full).inOrder rfl (goodToken 7 1) (by show LaneState.run ≠ _; decide) rfl rfl
    (by show (0 : Nat) < 200; decide),
    ⟨floorOk_lane0.single, floorOk_lane0.vacant, floorOk_lane0.empty, floorOk_lane0.barred, floorOk_lane0.distinct,
      floorOk_lane0.fault, floorOk_lane0.shadow⟩, rfl, by show LaneState.run ≠ _; decide, by decide +kernel,
    by decide, by decide⟩

theorem witness_TagGivenIsFree : (Work.mk lane0Full []).lane.presentTags.length < 65536 := by decide +kernel

/-- Lane 0 with `n` standby entries. -/
def lane0Listed (n : Nat) : Lane := lane0Pens { lane0.pens with standby := List.replicate n (listed 1) }

theorem witness_TokenIsListedOrHeldOut (n : Nat) :
    ((∃ c, InOrder .token .l0 3 ingestWin .b { (record 9 1 2 0) with check := c } (boardWith (lane0Listed n))) ∧
      ((lane0Listed n).pens.slots.get .b).role = .standby ∧ ((lane0Listed n).pens.slots.get .b).calm ∧
      (lane0Listed n).pens.floor ≠ .vacant ∧ (lane0Listed n).hold.state ≠ .hardHeld) ∧
    (let x := lane0Hold { lane0.hold with state := .hardHeld }
     (∃ c, InOrder .token .l0 3 ingestWin .a { (record 7 1 2 0) with check := c } (boardWith x)) ∧
      (x.pens.slots.get .a).calm ∧ x.hold.state = .hardHeld) :=
  ⟨⟨(board_is _).inOrder rfl (goodToken 9 1) (by show LaneState.run ≠ _; decide) rfl rfl (by show (0 : Nat) < 200; decide), rfl, rfl, by show FloorState.steady ≠ _; decide, by show LaneState.run ≠ _; decide⟩,
    (board_is _).inOrder rfl (goodToken 7 1) (by decide) (by decide) rfl (by show (0 : Nat) < 200; decide), rfl, rfl⟩

theorem witness_StandbyCorrectRemovesNewest (n : Nat) :
    (∃ c, InOrder .correct .l0 3 ingestWin .b { (record 9 1 0 1) with check := c } (boardWith (lane0Listed n))) ∧
    ((lane0Listed n).pens.slots.get .b).role = .standby ∧ ((lane0Listed n).pens.slots.get .b).calm :=
  ⟨(board_is _).inOrder rfl (goodCorrect 9 1) (by show LaneState.run ≠ _; decide) rfl rfl (by show (0 : Nat) < 200; decide), rfl, rfl⟩

/-- Lane 0 with two held tokens in slot A's recent list. -/
def lane0Recent : Lane :=
  { lane0Hold { lane0.hold with queue := [heldTok 3, heldTok 4] } with recent := ⟨[3, 4], []⟩ }

theorem witness_CorrectRetractsFromHold :
    (∃ c, InOrder .correct .l0 3 ingestWin .a { (record 7 1 0 1) with check := c } (boardWith lane0Recent)) ∧ lane0Recent.FloorOk ∧
    (lane0Recent.pens.slots.get .a).role = .floor ∧ lane0Recent.follower.state ≠ .locked ∧ 1 ≤ (lane0Recent.recent.get .a).length ∧
    ((lane0Recent.recent.get .a).drop 1).Nodup ∧ (lane0Recent.hold.queue.map (·.tag)).Nodup ∧
    (∀ g ∈ ((lane0Recent.recent.get .a).drop 1), g ∈ lane0Recent.hold.queue.map (·.tag) ∧ (∀ e ∈ lane0Recent.composer.emission, e.body.hasTag g = false) ∧
      (∀ q ∈ lane0Recent.composer.rows.spans, q.copy.hasTag g = false)) :=
by
  have hi : ∃ c, InOrder .correct .l0 3 ingestWin .a { (record 7 1 0 1) with check := c } (boardWith lane0Recent) :=
    (board_is lane0Recent).inOrder rfl (goodCorrect 7 1) (by show LaneState.run ≠ _; decide) rfl rfl
      (by show (0 : Nat) < 200; decide)
  have hf : lane0Recent.FloorOk := ⟨floorOk_lane0.single, floorOk_lane0.vacant, floorOk_lane0.empty,
    floorOk_lane0.barred, floorOk_lane0.distinct, floorOk_lane0.fault, floorOk_lane0.shadow⟩
  have ht : (lane0Recent.recent.get .a).drop 1 = [4] := rfl
  have hq : lane0Recent.hold.queue.map (·.tag) = [3, 4] := rfl
  refine ⟨hi, hf, rfl, by decide, by decide, ?_, ?_, ?_⟩
  · rw [ht]; simp
  · rw [hq]; decide
  · rw [ht, hq]
    intro g h
    rw [List.mem_singleton.1 h]
    exact ⟨by decide, fun e h => (by cases h), fun q h => (by cases h)⟩

theorem inOrder_plain {kind : IngestKind} (h1 : kind ≠ .token) (h2 : kind ≠ .correct) (k : SlotId) (floor : FloorState) :
    let pen : Half := match k with | .a => 7 | .b => 9
    ∃ c, InOrder kind .l0 3 ingestWin k { (record pen 1 0 0) with check := c }
      (boardWith (lane0Pens { lane0.pens with floor := floor })) := by
  cases k <;>
    exact (board_is _).inOrder rfl (goodPlain h1 h2 _ 1) (by show LaneState.run ≠ _; decide) rfl rfl (by show (0 : Nat) < 200; decide)

theorem floorOk_with {floor : FloorState} (h : floor ≠ .vacant) :
    (lane0Pens { lane0.pens with floor := floor }).FloorOk :=
  { floorOk_lane0 with
    vacant := ⟨fun e => absurd e h, fun e => absurd rfl e.1⟩ }

theorem witness_OfferMakesHandover :
    ((∃ c, InOrder .offer .l0 3 ingestWin .a { (record 7 1 0 0) with check := c } (boardWith lane0)) ∧
      (∃ c, InOrder .offer .l0 3 ingestWin .b { (record 9 1 0 0) with check := c } (boardWith lane0))) ∧ lane0.FloorOk ∧
    (lane0.pens.slots.get .a).role = .floor ∧ (lane0.pens.slots.get .b).role = .standby ∧
    (lane0.pens.slots.get .b).calm :=
  ⟨⟨inOrder_plain (by decide) (by decide) .a .steady, inOrder_plain (by decide) (by decide) .b .steady⟩,
    floorOk_lane0, rfl, rfl, rfl⟩

theorem witness_OfferTable (floor : FloorState) :
    let w : Work := { lane := lane0Pens { lane0.pens with floor := floor }, out := [] }
    (w.slot .a).role = .floor ∧ (w.slot .b).role = .standby ∧ w.lane.pens.floor = floor := ⟨rfl, rfl, rfl⟩

/-- Lane 0 with the floor pen silent, and pen 9 with 100 faults. -/
def lane0Silent : Lane := lane0Pens
  { lane0.pens with slots := ⟨{ penOf 7 .floor with silent := true }, { penOf 9 .standby with fault := 100 }⟩ }

theorem witness_TakeTransfersOrIsRefused :
    ((∃ c, InOrder .take .l0 3 ingestWin .b { (record 9 1 0 0) with check := c } (boardWith lane0Silent)) ∧ lane0Silent.FloorOk ∧
      (lane0Silent.pens.slots.get .b).role = .standby ∧ (lane0Silent.pens.slots.get .b).fault ≤ 100 ∧
      (lane0Silent.pens.slots.get (otherSlot .b)).silent = true) ∧
    ((∃ c, InOrder .take .l0 3 ingestWin .b { (record 9 1 0 0) with check := c } (boardWith (lane0Pens { lane0.pens with floor := .handover 125 }))) ∧
      (lane0Pens { lane0.pens with floor := .handover 125 }).FloorOk) ∧
    ((∃ c, InOrder .take .l0 3 ingestWin .a { (record 7 1 0 0) with check := c } (boardWith lane0)) ∧
      (lane0.pens.slots.get .a).calm ∧ (lane0.pens.slots.get .a).role = .floor) ∧
    ((∃ c, InOrder .take .l0 3 ingestWin .b { (record 9 1 0 0) with check := c } (boardWith lane0)) ∧ lane0.FloorOk ∧
      (lane0.pens.slots.get .b).calm ∧ lane0.pens.floor = .steady ∧
      (lane0.pens.slots.get (otherSlot .b)).silent = false ∧
      healthOf (lane0.pens.slots.get (otherSlot .b)).fault ≠ .suspect) :=
  ⟨⟨(board_is _).inOrder rfl (goodPlain (by decide) (by decide) 9 1) (by decide) (by decide) rfl
      (by show (100 : Nat) < 200; decide),
      { single := by decide, vacant := by decide, empty := by intro k; cases k <;> decide,
        barred := by intro k; cases k <;> decide, distinct := by decide, fault := by intro k; cases k <;> decide,
        shadow := by intro e h; cases h }, rfl, by decide, rfl⟩,
    ⟨inOrder_plain (by decide) (by decide) .b _, floorOk_with (by decide)⟩,
    ⟨inOrder_plain (by decide) (by decide) .a .steady, rfl, rfl⟩,
    inOrder_plain (by decide) (by decide) .b .steady, floorOk_lane0, rfl, rfl, rfl, by decide⟩

theorem witness_KeepaliveIsHeard :
    (∃ c, InOrder .keepalive .l0 3 ingestWin .b { (record 9 1 0 0) with check := c } board) ∧
    ((board.lanes.get .l0).pens.slots.get .b).calm :=
  ⟨inOrder_plain (by decide) (by decide) .b .steady, rfl⟩

/-- Lane 0 with pen 9 barred and a keepalive run. -/
def lane0Barred (run : Nat) : Lane := lane0Pens
  { lane0.pens with slots := ⟨penOf 7 .floor, { penOf 9 .standby with fault := 200, keepRun := run }⟩ }

theorem witness_KeepalivesRecoverABarredPen (run : Nat) (_h : run = 62 ∨ run = 63) :
    (∃ c, Heard .keepalive .l0 3 ingestWin .b { (record 9 1 0 0) with check := c } (boardWith (lane0Barred run))) ∧
    ((lane0Barred run).pens.slots.get .b).base = none ∧ 200 ≤ ((lane0Barred run).pens.slots.get .b).fault ∧
    ((lane0Barred run).pens.slots.get .b).keepRun = run :=
  ⟨(board_is _).heard rfl (goodPlain (by decide) (by decide) 9 1) (by show LaneState.run ≠ _; decide) rfl, rfl,
    by show 200 ≤ 200; decide, rfl⟩

/-! ### Directives -/

theorem directed (x : Lane) : Directed 15 commandWin 0 .l0 (boardWith x) :=
  ⟨(board_is x).command, rfl, rfl, rfl⟩

theorem laneSetChecked_check (enable : Bool) : (laneSetChecked enable laneSet).check =
    recordCheck (laneSetWords enable (laneSetChecked enable laneSet)) := by
  unfold laneSetChecked laneSetWords
  dsimp only
  exact recordCheck_directive _ _ _ _ _ _ (by simp)

theorem laneSetChecked_inRange (enable : Bool) : LaneSetInRange (laneSetChecked enable laneSet) :=
  ⟨by show 1 ≤ (60#10).toNat; decide, by show 1 ≤ (40#10).toNat ∧ (40#10).toNat ≤ (60#10).toNat; decide,
    by show 1 ≤ (2#4).toNat; decide, by show 1 ≤ (10#8).toNat; decide,
    by show (30#10).toNat ≤ (60#10).toNat; decide, by show 1 ≤ (100#12).toNat; decide,
    by show 1 ≤ (25#10).toNat; decide, by show 1 ≤ (4#4).toNat ∧ (4#4).toNat ≤ 8; decide,
    by show 2 ≤ (3#3).toNat ∧ (3#3).toNat ≤ 4; decide, by show 16 ≤ (32#6).toNat ∧ (32#6).toNat ≤ 40; decide,
    by show 0x20 ≤ (lowHalf 0x002D002D).toNat ∧ 0x20 ≤ (highHalf 0x002D002D).toNat; decide,
    by show 0x20 ≤ (lowHalf 0x003E003E).toNat ∧ 0x20 ≤ (highHalf 0x003E003E).toNat; decide⟩

theorem witness_LaneSetEnablesALane (x : Lane) (_h : x = .reset ∨ x = lane0) :
    Directed 15 commandWin (laneSetChecked true laneSet).lane .l0 (boardWith x) ∧
    (laneSetChecked true laneSet).check = recordCheck (laneSetWords true (laneSetChecked true laneSet)) ∧
    LaneSetInRange (laneSetChecked true laneSet) ∧ Lane.reset.hold.state = .off ∧ lane0.hold.state ≠ .off ∧
    (laneSetChecked true laneSet).r.toNat = lane0.composer.r ∧ (laneSetChecked true laneSet).w.toNat = lane0.composer.w :=
  ⟨directed x, laneSetChecked_check true, laneSetChecked_inRange true, rfl, by decide, rfl, rfl⟩

theorem witness_LaneSetDisablesALane :
    Directed 15 commandWin (laneSetChecked false laneSet).lane .l0 board ∧
    (laneSetChecked false laneSet).check = recordCheck (laneSetWords false (laneSetChecked false laneSet)) ∧
    LaneSetInRange (laneSetChecked false laneSet) :=
  ⟨directed lane0, laneSetChecked_check false, laneSetChecked_inRange false⟩

/-- BUSY: a new pen for the floor slot. Not BUSY: pen 9's slot emptied, and given pen 5. -/
theorem witness_PenSetFillsTheSlot (b floor : Bool) (pen : Half) :
    Directed 15 commandWin 0 .l0 board ∧
    (∃ c, c = recordCheck (directiveWords .penSet (mkWord [(0#8).toNat, place (bit b) 8, place (bit floor) 9])
      (mkWord [pen.toNat]) [] c)) ∧
    (lane0.pens.slots.get .a).role = .floor ∧ (5 : Half) ≠ (lane0.pens.slots.get .a).pen ∧
    (lane0.pens.slots.get .b).role ≠ .floor ∧ (lane0.pens.slots.get (otherSlot .b)).pen ≠ 5 ∧ lane0.FloorOk ∧
    healthOf (lane0.pens.slots.get .b).fault = .good :=
  ⟨directed lane0, directive_check _ _ _ _ (by decide), rfl, by decide, by decide, by decide, floorOk_lane0, rfl⟩

theorem witness_CueRestartsTheFollower (first : BitVec 12) (count : BitVec 13) :
    Directed 15 commandWin 0 .l0 board ∧
    (∃ c, c = recordCheck (directiveWords .cue (laneWord 0) (mkWord [first.toNat, place count.toNat 16]) [] c)) ∧
    board.windowOf .cue (some .l0) = some cueWin ∧ (60 + 4) * 32 ≤ cueWin.length ∧ cueWin.length < (60 + 5) * 32 ∧
    lane0.follower.fetch = none ∧
    (let s := { board with path := { board.path with windows :=
        [some ingestWin, some commandWin] ++ List.replicate 14 none } }
     s.windowOf .cue (some .l0) = none ∧ s.ringWindow .command = some commandWin ∧
      (s.windowOf .ingest (some .l0)).isSome = true) :=
  ⟨directed lane0, directive_check _ _ _ _ (by decide), rfl, by decide, by decide, rfl, rfl, rfl, rfl⟩

theorem witness_UncueDropsTheCue (x : Lane) : Directed 15 commandWin 0 .l0 (boardWith x) ∧
    ∃ c, c = recordCheck (directiveWords .uncue (laneWord 0) 0 [] c) :=
  ⟨directed x, directive_check _ _ _ _ (by decide)⟩

/-- The board with the software override flag on and a lane in the hold of its link. -/
def overridden (m : LinkMode) : State :=
  let x := { lane0Hold { lane0.hold with
    state := match m with | .none => .run | .soft => .softHeld | .hard => .hardHeld } with link := m }
  { boardWith x with unit := { board.unit with softOverride := true } }

theorem overridden_is (m : LinkMode) : Board (overridden m) := ⟨rfl, rfl, rfl, rfl⟩

theorem witness_LinkSetsTheMode (m : LinkMode) (mode : BitVec 2) :
    Directed 15 commandWin 0 .l0 board ∧ Directed 15 commandWin 0 .l0 (overridden m) ∧
    (∃ c, c = recordCheck (directiveWords .link (laneWord 0) (mkWord [mode.toNat]) [] c)) ∧
    board.overrideOn = false ∧ (overridden m).overrideOn = true ∧
    ((overridden m).lanes.get .l0).hold.state ≠ .off ∧ (overridden m).HoldsOk := by
  refine ⟨directed lane0, ⟨(overridden_is m).command, rfl, rfl, rfl⟩, directive_check _ _ _ _ (by decide), rfl, rfl,
    by cases m <;> decide, ?_⟩
  intro l
  cases l <;> cases m <;> decide

theorem witness_OverrideHoldsAndReleases (on : Bool) (m : LinkMode) :
    Ready .command 15 commandWin board ∧ Ready .command 15 commandWin (overridden m) ∧
    commandSlotOk 15 = true ∧ (∃ c, c = recordCheck (directiveWords .override 0 (mkWord [bit on]) [] c)) ∧
    board.overrideOn = false ∧ (overridden m).overrideOn = true ∧ board.timer.ovr.taken = false :=
  ⟨(board_is lane0).command, (overridden_is m).command, rfl, directive_check _ _ _ _ (by decide), rfl, rfl, rfl⟩

theorem witness_FlushEmptiesTheLane (x : Lane) : Directed 15 commandWin 0 .l0 (boardWith x) ∧
    ∃ c, c = recordCheck (directiveWords .flush (laneWord 0) 0 [] c) :=
  ⟨directed x, directive_check _ _ _ _ (by decide)⟩

theorem witness_RestoreClearsFaults (x : Lane) (b : Bool) : Directed 15 commandWin 0 .l0 (boardWith x) ∧
    (∃ c, c = recordCheck (directiveWords .restore (mkWord [(0#8).toNat, place (bit b) 8]) 0 [] c)) ∧
    (Lane.reset.pens.slots.get .a).pen = 0 ∧ (lane0.pens.slots.get .a).pen ≠ 0 ∧
    ((Work.mk lane0 []).slot .a).isEmpty = false :=
  ⟨directed x, directive_check _ _ _ _ (by decide), rfl, by decide, by decide⟩

/-- The staging queue at its last place and full with the writer at work, at its last place with the writer idle, and
empty with room in the ring and without. -/
theorem witness_SnapshotIsStaged (n : Nat) (_h : n = 7 ∨ n = 8) :
    let s := board.setReport { board.report with staging := List.replicate n stopped, phase := .record 0 }
    let idle := board.setReport { board.report with staging := List.replicate 7 stopped }
    let full := board.setReport { board.report with consume := 1 }
    Directed 15 commandWin 0 .l0 idle ∧ idle.report.staging.length = 7 ∧ idle.report.phase = .idle ∧
    Directed 15 commandWin 0 .l0 s ∧ s.report.staging.length = n ∧ s.report.phase ≠ .idle ∧
    (∃ c, c = recordCheck (directiveWords .snapshot (laneWord 0) 0 [] c)) ∧
    board.report.staging = [] ∧ board.report.phase = .idle ∧ 7 ≤ board.report.freeRecords ∧
    Directed 15 commandWin 0 .l0 full ∧ full.report.freeRecords < 7 := by
  refine ⟨⟨Board.command ⟨rfl, rfl, rfl, rfl⟩, rfl, rfl, rfl⟩, rfl, rfl,
    ⟨Board.command ⟨rfl, rfl, rfl, rfl⟩, rfl, rfl, rfl⟩, List.length_replicate, by show WriterPhase.record 0 ≠ _; decide,
    directive_check _ _ _ _ (by decide), rfl, rfl, by decide, ⟨Board.command ⟨rfl, rfl, rfl, rfl⟩, rfl, rfl, rfl⟩,
    by decide⟩

theorem witness_StopIsAccepted : Ready .command 15 commandWin board ∧ commandSlotOk 15 = true ∧
    ∃ c, c = recordCheck (directiveWords .stop 0 0 [] c) :=
  ⟨(board_is lane0).command, rfl, directive_check _ _ _ _ (by decide)⟩

/-! ### Blocks and invariants -/

theorem witness_MeasurementStepsTheEstimate : (Work.mk lane0 []).lane.tracker.hardAlign = false ∧
    (Work.mk lane0 []).lane.tracker.l ≤ (Work.mk lane0 []).lane.tracker.d := by decide

theorem witness_GuardTakesTheGthSample : (Guard.mk false 1).run < 3 ∧ (Guard.mk false 1).run + 1 < 3 ∧
    (Guard.mk false 2).run < 3 ∧ (Guard.mk false 2).run + 1 = 3 := by decide

theorem witness_FreshCompositionPlacesCells :
    1 ≤ lane0.composer.c ∧ ({ lane0.composer with eraseDebt := 9 } : Composer).pendingClear = true ∧
    min 9 (lane0.composer.c - 1) < 9 ∧ min 0 (lane0.composer.c - 1) = 0 ∧ LaneState.softHeld ≠ .run := by decide

theorem lane0_lanes (P : Lane → Prop) (h0 : P lane0) (h : P .reset) (l : LaneId) : P (board.lanes.get l) := by
  cases l
  · exact h0
  all_goals exact h

theorem witness_AccountingIsInvariant : lane0.Accounted ∧ (lane0Hold { lane0.hold with
      queue := [heldTok 1], counters := { Counters.zero with admitted := 3, held := 1, emitted := 2 } }).Accounted :=
  ⟨⟨rfl, rfl, rfl, by decide, by decide, by decide⟩, ⟨rfl, rfl, rfl, by decide, by decide, by decide⟩⟩

theorem witness_BoundsAreInvariant : lane0Full.Bounded ∧ lane0.Timed ∧ board.StagingOk :=
  ⟨⟨by decide +kernel, by decide, by decide, by decide, by intro k; cases k <;> decide⟩, by unfold Lane.Timed; decide,
    by unfold State.StagingOk; decide⟩

theorem witness_FloorIsInvariant : lane0.FloorOk ∧ step board = .next board := ⟨floorOk_lane0, rfl⟩

theorem witness_HoldsAreInvariant (m : LinkMode) : (overridden m).HoldsOk := by
  intro l
  cases l <;> cases m <;> decide

theorem witness_PathIsInvariant : board.PathOk :=
  { portH := ⟨fun h => (by cases h), fun ⟨_, h, _⟩ => (by cases h)⟩,
    portV := ⟨fun h => (by cases h), fun ⟨_, h, _⟩ => (by cases h)⟩,
    once := by decide, apart := by (intro q h; cases h), deferred := by (intro q h; cases h),
    waits := (board_is lane0).quiet }

end Sys2Proof.Tests
end

section
/-!
The last served (R28): what START, STOP and the end of STOPPING leave of the Memory Path, and what a grant puts on
Port M.
-/
namespace Sys2Proof.Machine

/-! ## START and STOP -/

/-- R168: START carried out changes the loaded table and the memory limit of the Memory Path, or nothing of it. -/
theorem doStart_path (s : State) :
    (doStart s).path =
      match setupFailure s.bootBase s.unit.setupCopy with
      | some _ => s.path
      | none => { s.path with windows := readWindows s.unit.setupCopy, memLimit := readMemLimit s.unit.setupCopy } := by
  unfold doStart
  cases setupFailure s.bootBase s.unit.setupCopy with
  | some f => exact enterRequest_path _ s
  | none =>
    calc (enterStartHeader (enterResult none (loadSetup s))).path
        = (enterResult none (loadSetup s)).path := enterRequest_path _ _
      _ = (loadSetup s).path := enterRequest_path _ _

/-- R28: START keeps the last served. -/
theorem doStart_lastServed (s : State) : (doStart s).path.lastServed = s.path.lastServed := by
  rw [doStart_path]
  split <;> rfl

/-- R169: of the Memory Path, STOP changes the mark of the access on Port M and the two refusal tallies. -/
theorem stopTakesEffect_path (s : State) :
    (stopTakesEffect s).path =
      { s.path with
        portM := s.path.portM.map orphaned,
        h := { s.path.h with tally := .empty }, v := { s.path.v with tally := .empty } } :=
  handReport_path _ _

/-- R28: STOP taking effect keeps the last served. -/
theorem stopTakesEffect_lastServed (s : State) : (stopTakesEffect s).path.lastServed = s.path.lastServed := by
  rw [stopTakesEffect_path]

/-- R28: the end of STOPPING keeps the last served. -/
theorem finishStopping_lastServed (s : State) : (finishStopping s).path.lastServed = s.path.lastServed := by
  unfold finishStopping
  split <;> rfl

/-! ## The contest of Port H with the engine (R27 step 3) -/

/-- R26: a port's grant puts that port's access on Port M. -/
theorem grantPort_portM (p : Port) (x : Access) (s : State) :
    ∃ m, (grantPort p x s).path.portM = some m ∧ m.owner = .port p := ⟨_, rfl, rfl⟩

/-- R30: an engine's grant puts the entry on Port M. -/
theorem grantEngine_portM (q : Request) (s : State) : (grantEngine q s).path.portM = some (engineAccess q) := rfl

/-- R27: with Port V not waiting and no urgent entry in front, the arbitration comes to its third step. -/
theorem arbitrate_turn {s : State} (free : s.path.portM = none) (noV : s.path.v.waiting? = none)
    (front : ∀ q, s.frontEntry = some q → s.urgent q = false) : arbitrate s = arbitrateTurn s := by
  unfold arbitrate
  rw [free, noV]
  cases hq : s.frontEntry with
  | none => rfl
  | some q => simp [front q hq]

/-- R27 step 3: with both requesters there, the one that is not the last served is granted. -/
theorem arbitrateTurn_contest {s : State} {x : Access} {q : Request} (h : s.path.h.waiting? = some x)
    (front : s.frontEntry = some q) :
    arbitrateTurn s =
      if s.path.lastServed = .portH then grantEngine q (s.setServed .engine)
      else grantPort .h x (s.setServed .portH) := by
  unfold arbitrateTurn
  rw [h, front]

/-- Settles O5: the reset by its definition, START and STOP by what they leave of the Memory Path, the contest by
the third step of the arbitration, split by the last served. -/
theorem lastServedFromTie : Obligations.LastServedFromTie := by
  refine ⟨fun _ _ _ _ => rfl, doStart_lastServed,
    fun s => ⟨stopTakesEffect_lastServed s, finishStopping_lastServed s⟩, ?_⟩
  intro s x q free noV waitsH front calm
  have turn : arbitrate s = arbitrateTurn s :=
    arbitrate_turn free noV fun r hr => by
      have same : q = r := Option.some.inj (front.symm.trans hr)
      rw [← same, calm]
  rw [turn, arbitrateTurn_contest waitsH front]
  by_cases served : s.path.lastServed = .portH
  · rw [if_pos served, if_pos served]
    exact ⟨_, grantEngine_portM q _, rfl⟩
  · rw [if_neg served, if_neg served]
    exact grantPort_portM .h x _

end Sys2Proof.Machine
end

section
/-!
The OFFER (R59): when it is taken and when it is refused, and what the record's disposition is then.
-/
namespace Sys2Proof.Machine

/-! ## The floor of an OFFER -/

/-- R59: an OFFER of the floor pen is taken in STEADY and in HANDOVER alike, each time with a new deadline. -/
theorem offerEffect_floor {k : SlotId} {w : Work} (c : LaneCtx) (role : (w.slot k).role = .floor)
    (held : w.lane.pens.floor ≠ .vacant) :
    offerEffect c k w = some (w.setPens { w.lane.pens with
      floor := .handover (c.now + BitVec.ofNat 32 w.lane.pens.takeWindow) }) := by
  unfold offerEffect
  rw [if_pos role]
  cases floor : w.lane.pens.floor with
  | steady => rfl
  | handover deadline => rfl
  | vacant => exact absurd floor held

/-- R59: an OFFER of a STANDBY pen is never taken. -/
theorem offerEffect_standby {k : SlotId} {w : Work} (c : LaneCtx) (role : (w.slot k).role = .standby) :
    offerEffect c k w = none := by
  unfold offerEffect
  rw [if_neg (by rw [role]; decide)]

/-! ## The record of an OFFER -/

/-- R45 test 9: the disposition of an OFFER that is taken. -/
theorem recordEffect_offer_taken {c : LaneCtx} {k : SlotId} {w w1 : Work} (r : IngestRecord) (gap : Bool)
    (taken : offerEffect c k w = some w1) : recordEffect c k .offer r gap w = (w1, accepted gap 1) := by
  unfold recordEffect
  rw [taken]

/-- R45 test 8: the disposition of an OFFER that is refused; the lane's work stays as it is. -/
theorem recordEffect_offer_refused {c : LaneCtx} {k : SlotId} {w : Work} (r : IngestRecord) (gap : Bool)
    (refused : offerEffect c k w = none) : recordEffect c k .offer r gap w = (w, refusedRole w gap) := by
  unfold recordEffect
  rw [refused]

/-- R45 test 8: the detail of REFUSED-ROLE is the code of the floor state. -/
theorem refusedRole_of_floor {w : Work} {f : FloorState} (gap : Bool) (floor : w.lane.pens.floor = f) :
    refusedRole w gap = { outcome := .refusedRole, detail := f.code, gap := gap, health := none } := by
  unfold refusedRole disp
  rw [floor]

/-- R45, R59: an OFFER of a STANDBY pen changes nothing and names the floor state. -/
theorem recordEffect_offer_standby {k : SlotId} {w : Work} {f : FloorState} (c : LaneCtx) (r : IngestRecord)
    (gap : Bool) (role : (w.slot k).role = .standby) (floor : w.lane.pens.floor = f) :
    recordEffect c k .offer r gap w =
      (w, { outcome := .refusedRole, detail := f.code, gap := gap, health := none }) := by
  rw [recordEffect_offer_refused r gap (offerEffect_standby c role), refusedRole_of_floor gap floor]

/-- Settles O37: the floor pen's OFFER is taken in every floor state that has a floor pen, the STANDBY pen's is
refused with the floor's code; a LANE-SET sets Q and the take window of the pens block only. -/
theorem offerTable : Obligations.OfferTable := by
  intro c k r gap w
  have taken (role : (w.slot k).role = .floor) (held : w.lane.pens.floor ≠ .vacant) :=
    recordEffect_offer_taken r gap (offerEffect_floor c role held)
  refine ⟨fun role floor => taken role ?_, fun deadline role floor => taken role ?_,
    recordEffect_offer_standby c r gap,
    fun deadline => recordEffect_offer_standby c r gap,
    recordEffect_offer_standby c r gap, fun q => ⟨rfl, rfl⟩⟩
  all_goals
    rw [floor]
    exact FloorState.noConfusion

end Sys2Proof.Machine
end

section
/-!
What the pieces of a command's work can do to the queue, the Memory Path, the Transfer Engine and the staging queue,
said once: a property of those that the few operations on them keep is kept by every piece of work (`WorkRule`) and
by every taking of words and every end of an engine access (`TakeRule`).
-/
namespace Sys2Proof.Machine

/-! ## States that look alike to the Memory Path -/

/-- `t` has the queue, the Transfer Engine, Port M's access, the ports' states and responses of `s`, and a staging
queue that is no longer, or within its capacity (R172). -/
structure Alike (s t : State) : Prop where
  pending : t.pending = s.pending
  engine : t.engine = s.engine
  portM : t.path.portM = s.path.portM
  portH : t.path.h.state = s.path.h.state ∧ t.path.h.response = s.path.h.response
  portV : t.path.v.state = s.path.v.state ∧ t.path.v.response = s.path.v.response
  staging : t.report.staging.length ≤ max s.report.staging.length Config.stagingCap

theorem Alike.of_path {s t : State} (p : t.pending = s.pending) (e : t.engine = s.engine) (q : t.path = s.path)
    (r : t.report = s.report) : Alike s t :=
  ⟨p, e, by rw [q], by rw [q]; exact ⟨rfl, rfl⟩, by rw [q]; exact ⟨rfl, rfl⟩, by rw [r]; exact le_max_left _ _⟩

theorem setReport_alike {s : State} {r : ReportUnit}
    (h : r.staging.length ≤ max s.report.staging.length Config.stagingCap) : Alike s (s.setReport r) :=
  ⟨rfl, rfl, rfl, ⟨rfl, rfl⟩, ⟨rfl, rfl⟩, h⟩

/-- R173 step 1: the room test only takes reports off the queue. -/
theorem dropFull_length (free : Nat) (rs : List Report) (n : Counter) :
    (dropFull free rs n).1.length ≤ rs.length := by
  induction rs generalizing n with
  | nil => exact Nat.le_refl 0
  | cons r rs ih =>
    unfold dropFull
    split
    · exact (ih _).trans (Nat.le_succ _)
    · exact Nat.le_refl _

/-! ## Work -/

/-- `Q` reads nothing else, and an access of the report writer or of a script fetch that enters keeps it. -/
structure WorkRule (Q : State → Prop) : Prop where
  alike : ∀ {s t}, Alike s t → Q s → Q t
  enter : ∀ {q s}, (q.requester = .report ∨ ∃ l, q.requester = .fetch l) → Q s → Q (enterRequest q s)

variable {Q : State → Prop}

/-- A change of anything else of the part. -/
theorem WorkRule.other (W : WorkRule Q) {s t : State} (h : Q s) (p : t.pending = s.pending)
    (e : t.engine = s.engine) (q : t.path = s.path) (r : t.report = s.report) : Q t :=
  W.alike (.of_path p e q r) h

theorem WorkRule.setReport (W : WorkRule Q) {s : State} {r : ReportUnit}
    (h : r.staging.length ≤ max s.report.staging.length Config.stagingCap) (k : Q s) : Q (s.setReport r) :=
  W.alike (setReport_alike h) k

/-- A change of the Report Unit that keeps the staging queue. -/
theorem WorkRule.rephase (W : WorkRule Q) {s : State} {r : ReportUnit} (h : r.staging = s.report.staging)
    (k : Q s) : Q (s.setReport r) := W.setReport (by rw [h]; exact le_max_left _ _) k

/-- An access that the report writer enters with its next phase. -/
theorem WorkRule.writes (W : WorkRule Q) {s : State} {r : ReportUnit} {q : Request} (hq : q.requester = .report)
    (h : r.staging = s.report.staging) (k : Q s) : Q (enterRequest q (s.setReport r)) :=
  W.enter (.inl hq) (W.rephase h k)

theorem WorkRule.enterRecord (W : WorkRule Q) (i : Nat) {s : State} (h : Q s) : Q (enterRecord i s) := by
  unfold Machine.enterRecord
  split
  · exact h
  · exact W.writes rfl rfl h

theorem WorkRule.writerBegin (W : WorkRule Q) {s : State} (h : Q s) : Q (writerBegin s) := by
  unfold Machine.writerBegin
  split
  · exact W.enterRecord 0 (W.setReport ((dropFull_length _ _ _).trans (le_max_left _ _)) h)
  · exact h

theorem WorkRule.afterRecords (W : WorkRule Q) {s : State} (h : Q s) : Q (afterRecords s) := by
  unfold Machine.afterRecords
  split
  · exact W.writes rfl rfl h
  · exact W.writes rfl rfl h

theorem WorkRule.writerNext (W : WorkRule Q) {s : State} (h : Q s) : Q (writerNext s) := by
  refine W.writerBegin (W.setReport ?_ h)
  exact (List.length_tail ▸ Nat.sub_le _ _).trans (le_max_left _ _)

/-- R168 step 5, R173: an access of the report writer that ended NO-RESPONSE. -/
theorem WorkRule.writerFailed (W : WorkRule Q) {s : State} (h : Q s) : Q (writerFailed s) := by
  unfold Machine.writerFailed
  cases s.report.phase with
  | idle => exact h
  | startDropped => exact W.writes rfl rfl (W.rephase rfl h)
  | startProduce => exact W.writerBegin (W.rephase rfl h)
  | record i => exact W.writerNext (W.rephase rfl h)
  | dropped n => exact W.writerNext (W.rephase rfl h)
  | produce => exact W.writerNext (W.rephase rfl h)

/-- R168 step 5, R173: one that ended OK. -/
theorem WorkRule.writerDone (W : WorkRule Q) {s : State} (h : Q s) : Q (writerDone s) := by
  unfold Machine.writerDone
  cases s.report.phase with
  | idle => exact h
  | startDropped => exact W.writes rfl rfl h
  | startProduce => exact W.writerBegin (W.rephase rfl h)
  | record i => exact iteInduction (fun _ => W.enterRecord (i + 1) h) fun _ => W.afterRecords h
  | dropped n => exact W.writes rfl rfl (W.rephase rfl h)
  | produce => exact W.writerNext (W.rephase rfl h)

theorem WorkRule.handReport (W : WorkRule Q) (r : Report) {s : State} (h : Q s) : Q (handReport r s) := by
  unfold Machine.handReport
  split
  · split
    · rename_i room
      refine W.writerBegin (W.setReport ?_ h)
      rw [List.length_append]
      exact (Nat.succ_le_of_lt room).trans (le_max_right _ _)
    · exact W.rephase rfl h
  · exact h

theorem WorkRule.finishWork (W : WorkRule Q) (l : LaneId) (w : Work) {s : State} (h : Q s) :
    Q (finishWork l w s) := by
  have effects : ∀ (es : List Effect) (t : State), Q t → Q (es.foldl (applyEffect l) t) := by
    intro es
    induction es with
    | nil => exact fun _ ht => ht
    | cons e es ih =>
      intro t ht
      refine ih _ ?_
      cases e with
      | report r => exact W.handReport r ht
      | burst a n => exact W.enter (.inr ⟨l, rfl⟩) ht
  exact effects _ _ (W.other h rfl rfl rfl rfl)

theorem WorkRule.runLane (W : WorkRule Q) (l : LaneId) (f : LaneCtx → Work → Work) {s : State} (h : Q s) :
    Q (runLane l f s) := W.finishWork l _ (W.other h rfl rfl rfl rfl)

theorem WorkRule.changeOverride (W : WorkRule Q) (cause : HoldCause) (b a : Bool) {s : State} (h : Q s) :
    Q (changeOverride cause b a s) := by
  have lanes : ∀ (ls : List LaneId) (t : State), Q t →
      Q (ls.foldl (fun t l => takeOverride cause a l t) t) := by
    intro ls
    induction ls with
    | nil => exact fun _ ht => ht
    | cons l ls ih => exact fun t ht => ih _ (W.runLane l _ ht)
  unfold Machine.changeOverride
  split
  · exact h
  · exact lanes _ _ (W.other h rfl rfl rfl rfl)

theorem WorkRule.acceptOverride (W : WorkRule Q) (on : Bool) {s : State} (h : Q s) : Q (acceptOverride on s) :=
  W.changeOverride _ _ _ (W.other h rfl rfl rfl rfl)

/-! ## What a directive comes to -/

/-- The end of a directive: nothing, one piece of a lane's work, a change of the override flag, or a SNAPSHOT. -/
inductive DirectiveEnd (s : State) : State → Prop where
  | unchanged : DirectiveEnd s s
  | work (l : LaneId) (f : LaneCtx → Work → Work) : DirectiveEnd s (runLane l f s)
  | override (on : Bool) : DirectiveEnd s (acceptOverride on s)
  | snapshot (l : LaneId) : DirectiveEnd s (acceptSnapshot l s)

theorem laneDirective_end (k : DirectiveKind) (ws : List Word) (l : LaneId) (s : State) :
    DirectiveEnd s (laneDirective k ws l s).state := by
  cases k with
  | laneSet =>
    unfold laneDirective
    dsimp only
    split
    · exact .work l _
    · exact .unchanged
  | penSet =>
    unfold laneDirective
    dsimp only
    split
    · exact .unchanged
    · split
      · exact .unchanged
      · exact .work l fun c w => acceptPenSet c (readPenSet ws) w
  | cue =>
    unfold laneDirective directiveCue
    dsimp only
    split
    · exact .unchanged
    · split
      · exact .unchanged
      · split
        · exact .unchanged
        · exact .work l fun c w => acceptCue c (field (wordAt ws 3) 0 12) (field (wordAt ws 3) 16 13) w
  | uncue => exact .work l fun _ w => acceptUncue w
  | link =>
    unfold laneDirective
    dsimp only
    split
    · exact .work l _
    · exact .unchanged
  | override => exact .override _
  | flush => exact .work l _
  | restore =>
    unfold laneDirective
    dsimp only
    split
    · exact .unchanged
    · exact .work l fun c w => acceptRestore c (directiveSlot ws) w
  | snapshot => exact .snapshot l
  | stop => exact .unchanged

theorem carryOut_end (k : DirectiveKind) (ws : List Word) (s : State) :
    DirectiveEnd s (carryOut k ws s).state := by
  have lane : ∀ k, DirectiveEnd s
      (match directiveLane ws s with
        | some l => laneDirective k ws l s
        | none => refuseWith 1 s).state := by
    intro k
    split
    · exact laneDirective_end k ws _ s
    · exact .unchanged
  cases k with
  | override => exact .override _
  | stop => exact .unchanged
  | laneSet => exact lane .laneSet
  | penSet => exact lane .penSet
  | cue => exact lane .cue
  | uncue => exact lane .uncue
  | link => exact lane .link
  | flush => exact lane .flush
  | restore => exact lane .restore
  | snapshot => exact lane .snapshot

theorem processDirective_end (x : Rec) (s : State) : DirectiveEnd s (processDirective x s).state := by
  unfold processDirective
  split
  · exact .unchanged
  · split
    · exact .unchanged
    · exact carryOut_end _ _ s

theorem WorkRule.directive (W : WorkRule Q) {s t : State} (e : DirectiveEnd s t) (h : Q s) : Q t := by
  cases e with
  | unchanged => exact h
  | work l f => exact W.runLane l f h
  | override on => exact W.acceptOverride on h
  | snapshot l => exact W.handReport _ h

/-- R39: the processing of a record by its block. -/
theorem WorkRule.processByBlock (W : WorkRule Q) (a : AsmId) (x : Rec) {s : State} (h : Q s) :
    Q (processByBlock a x s).state := by
  cases a with
  | lane l => exact W.finishWork l _ (W.other h rfl rfl rfl rfl)
  | command => exact W.directive (processDirective_end x s) h

/-! ## Line events -/

/-- R25: a port's tally is no part of its state or response. -/
theorem setTally_alike (s : State) (p : Port) (y : Tally) : Alike s (s.setPort p { s.portUnit p with tally := y }) := by
  cases p <;> exact ⟨rfl, rfl, rfl, ⟨rfl, rfl⟩, ⟨rfl, rfl⟩, le_max_left _ _⟩

theorem WorkRule.runTask (W : WorkRule Q) (k : Task) {s : State} (h : Q s) : Q (runTask s k) := by
  cases k with
  | reference old => exact W.handReport _ h
  | tally p =>
    show Q (tallyFieldStart p s)
    unfold tallyFieldStart
    dsimp only
    split
    · exact W.handReport _ (W.alike (setTally_alike s p _) h)
    · exact h
  | pens l => exact W.runLane l _ h
  | hold l => exact W.runLane l _ h
  | composer l p =>
    show Q (if s.composing l then _ else s)
    split
    · exact W.runLane l _ h
    · exact h
  | compose l p =>
    show Q (if s.composing l then _ else s)
    split
    · exact W.runLane l _ h
    · exact h
  | onset l => exact W.runLane l _ h
  | override l a => exact W.runLane l _ h

theorem WorkRule.runTasks (W : WorkRule Q) (ks : List Task) {s : State} (h : Q s) : Q (runTasks ks s) := by
  have all : ∀ (ks : List Task) (t : State), Q t → Q (ks.foldl Machine.runTask t) := by
    intro ks
    induction ks with
    | nil => exact fun _ ht => ht
    | cons k ks ih => exact fun t ht => ih _ (W.runTask k ht)
  exact all _ _ (W.other h rfl rfl rfl rfl)

theorem WorkRule.lineEvent (W : WorkRule Q) (t : Timing) (v : Levels) (old : RefState) (x : FieldTimer)
    (work : List Task) {s : State} (h : Q s) : Q (lineEvent t v old x work s) :=
  W.runTasks _ (W.other h rfl rfl rfl rfl)

/-! ## The taking of words and the ends of engine accesses -/

/-- What STOP leaves of the Transfer Engine and of the access on Port M (R169 step 2). -/
def State.abandonEngine (s : State) : State :=
  { s with engine := ⟨[], []⟩, path := { s.path with portM := s.path.portM.map orphaned } }

/-- Every access that enters, a withdrawal and the abandoning of the engine by STOP keep `Q` too. -/
structure TakeRule (Q : State → Prop) : Prop extends WorkRule Q where
  enterAny : ∀ q {s}, Q s → Q (enterRequest q s)
  withdraw : ∀ r {s}, Q s → Q (withdrawRequest r s)
  abandon : ∀ {s}, Q s → Q s.abandonEngine

theorem TakeRule.setAsm (R : TakeRule Q) {s : State} (a : AsmId) (x : Assembler) (h : Q s) : Q (s.setAsm a x) :=
  R.other h rfl rfl rfl rfl

theorem TakeRule.processRecord (R : TakeRule Q) (a : AsmId) (x : Rec) {s : State} (h : Q s) :
    Q (processRecord a x s) :=
  R.enterAny _ (R.setAsm _ _ (R.processByBlock a x h))

theorem TakeRule.stop (R : TakeRule Q) {s : State} (h : Q s) : Q (stopTakesEffect s) := by
  refine R.handReport _ (R.alike (s := s.abandonEngine) ?_ (R.abandon h))
  exact ⟨rfl, rfl, rfl, ⟨rfl, rfl⟩, ⟨rfl, rfl⟩, Nat.zero_le _⟩

theorem TakeRule.reuse (R : TakeRule Q) (a : AsmId) (x : Handoff) {s : State} (h : Q s) : Q (reuseSlot a x s) :=
  R.handReport _ (R.withdraw _ (R.setAsm _ _ h))

theorem TakeRule.lose (R : TakeRule Q) (a : AsmId) (x : Rec) {s : State} (h : Q s) : Q (loseRecord a x s) := by
  refine R.handReport _ ?_
  cases a with
  | lane l => exact R.other h rfl rfl rfl rfl
  | command => exact R.other h rfl rfl rfl rfl

theorem TakeRule.startRest (R : TakeRule Q) (a : AsmId) (slot : Nat) (d : Word) {s : State} (h : Q s) :
    Q (startRest a slot d s) := by
  unfold Machine.startRest
  dsimp only
  split
  · exact R.setAsm _ _ h
  · exact R.setAsm _ _ (R.setAsm _ _ h)
  · split
    · exact R.setAsm _ _ (R.lose a _ (R.setAsm _ _ h))
    · exact R.setAsm _ _ (R.processRecord a _ (R.setAsm _ _ h))

theorem TakeRule.startRecord (R : TakeRule Q) (a : AsmId) (slot : Nat) (d : Word) {s : State} (h : Q s) :
    Q (startRecord a slot d s) := by
  unfold Machine.startRecord
  split
  · split
    · split
      · exact R.stop (R.reuse a _ h)
      · exact R.startRest a slot d (R.reuse a _ h)
    · exact R.startRest a slot d h
  · exact R.startRest a slot d h

theorem TakeRule.laterWord (R : TakeRule Q) (a : AsmId) (slot k : Nat) (d : Word) {s : State} (h : Q s) :
    Q (laterWord a slot k d s).1 := by
  unfold Machine.laterWord
  split
  · split
    · split
      · unfold completeRecord
        dsimp only
        split
        · exact R.setAsm _ _ h
        · exact R.processRecord a _ (R.setAsm _ _ h)
      · exact R.setAsm _ _ h
    · exact R.setAsm _ _ h
  · exact R.setAsm _ _ h
  · exact R.setAsm _ _ h

theorem TakeRule.copyWord (R : TakeRule Q) (a : AsmId) (o : Nat) (d : Word) {s : State} (h : Q s) :
    Q (copyWord a o d s).1 := by
  unfold Machine.copyWord
  split
  · exact R.startRecord a _ d h
  · exact R.laterWord a _ _ d h

theorem TakeRule.takeWrite (R : TakeRule Q) (p : Port) (a : Addr) (d : Word) {s : State} (h : Q s) :
    Q (takeWrite p a d s).1 := by
  unfold Machine.takeWrite
  split
  · exact R.alike (setTally_alike s p _) h
  · unfold passWrite
    split
    · exact h
    · split
      · exact h
      · exact R.other h rfl rfl rfl rfl
      · split
        · exact R.copyWord _ _ d h
        · exact R.copyWord _ _ d h
        · exact h
        · exact h
        · dsimp only
          split
          · unfold offerConsume
            split
            · exact R.rephase rfl h
            · exact h
          · exact h

theorem TakeRule.takeWrites (R : TakeRule Q) (p : Port) (ds : List Word) (a : Addr) {s : State} (h : Q s) :
    Q (takeWrites p a ds s).1 := by
  induction ds generalizing a s with
  | nil => exact h
  | cons d ds ih => exact ih (a + 4) (R.takeWrite p a d h)

theorem TakeRule.takeRead (R : TakeRule Q) (p : Port) (a : Addr) {s : State} (h : Q s) :
    Q (takeRead p a s).1 := by
  unfold Machine.takeRead
  split
  · exact h
  · exact h
  · split
    · dsimp only
      split
      · exact h
      · unfold readLatch
        dsimp only
        split
        · exact R.runLane _ _ h
        · exact h
    · exact h

theorem TakeRule.takeReads (R : TakeRule Q) (p : Port) (n : Nat) (a : Addr) {s : State} (h : Q s) :
    Q (takeReads p n a s).1 := by
  induction n generalizing a s with
  | zero => exact h
  | succ n ih => exact ih (a + 4) (R.takeRead p a h)

/-- R167, R168: START carried out. -/
theorem TakeRule.doStart (R : TakeRule Q) {s : State} (h : Q s) : Q (doStart s) := by
  unfold Machine.doStart
  split
  · exact R.enterAny _ h
  · refine R.enterAny _ (R.rephase rfl (R.enterAny _ (R.alike (s := s) ?_ h)))
    exact ⟨rfl, rfl, rfl, ⟨rfl, rfl⟩, ⟨rfl, rfl⟩, Nat.zero_le _⟩

/-- R17, R166: the words of an access taken. -/
theorem TakeRule.takeAccess (R : TakeRule Q) (p : Port) (x : Access) {s : State} (h : Q s) :
    Q (takeAccess p x s).1 := by
  have words : Q (match x.xfer with
      | .write data => Machine.takeWrites p x.addr data s
      | .read n => Machine.takeReads p n x.addr s).1 := by
    split
    · exact R.takeWrites p _ _ h
    · exact R.takeReads p _ _ h
  unfold Machine.takeAccess
  dsimp only
  split
  · exact R.doStart words
  · exact words

/-- R40: the end of a write-back. -/
theorem TakeRule.writebackEnd (R : TakeRule Q) (a : AsmId) (m : MAccess) (ok : Bool) {s : State} (h : Q s) :
    Q (writebackEnd a m ok s) := by
  unfold Machine.writebackEnd
  dsimp only
  split
  · exact h
  · rename_i x _
    have emptied : Q (s.setAsm a { s.asm.get a with handoff := none }) := R.setAsm _ _ h
    split
    · exact emptied
    · have reported : Q
          (if ok then s.setAsm a { s.asm.get a with handoff := none }
            else ringReport a x.record.slot .engineError [codeItem 1, .whole (BitVec.ofNat 32 m.addr.toNat)]
              (s.setAsm a { s.asm.get a with handoff := none })) := by
        split
        · exact emptied
        · exact R.handReport _ emptied
      split
      · exact R.stop reported
      · split
        · exact R.processRecord a _ (R.setAsm _ _ reported)
        · exact reported
        · exact reported

/-- R26, R31: the outcome of an engine access at its requester. -/
theorem TakeRule.engineEnd (R : TakeRule Q) (r : Requester) (m : MAccess) (e : Ending) {s : State} (h : Q s) :
    Q (engineEnd r m e s) := by
  cases r with
  | writeBack a => exact R.writebackEnd a m _ h
  | fetch l =>
    show Q (if m.orphan then s else _)
    split
    · exact h
    · exact R.runLane l _ h
  | report =>
    show Q (if m.orphan then s else if e = .expired then writerFailed s else writerDone s)
    split
    · exact h
    · split
      · exact R.writerFailed h
      · exact R.writerDone h
  | setupResult => exact h

end Sys2Proof.Machine
end

section
/-!
Port M, the ports and the request list (sections 2.1, 2.5, 2.6): what every taking of words and every end of an access
keeps of them, and what an arbitration leaves; the invariant of the path from there.
-/
namespace Sys2Proof.Machine

/-! ## The request list (R30) -/

theorem requesterBusy_iff {s : State} {r : Requester} :
    s.requesterBusy r = true ↔
      (∃ q ∈ s.engine.requests, q.requester = r) ∨ ∃ m, s.path.portM = some m ∧ m.owner = .engine r := by
  unfold State.requesterBusy
  rw [Bool.or_eq_true, List.any_eq_true]
  refine or_congr (by simp) ?_
  cases s.path.portM <;> simp

/-- An access enters the list, or waits for its requester's earlier one. -/
theorem enterRequest_engine (q : Request) (s : State) :
    (s.requesterBusy q.requester = true ∧
        (enterRequest q s).engine = { s.engine with deferred := s.engine.deferred ++ [q] }) ∨
      (s.requesterBusy q.requester = false ∧
        (enterRequest q s).engine = { s.engine with requests := s.engine.requests ++ [q] }) := by
  cases h : s.requesterBusy q.requester with
  | true => exact .inl ⟨rfl, by unfold enterRequest; rw [if_pos h]⟩
  | false => exact .inr ⟨rfl, enterRequest_free h⟩

/-- A requester with an access under way keeps it when another enters. -/
theorem requesterBusy_enterRequest {q : Request} {s : State} {r : Requester} (h : s.requesterBusy r = true) :
    (enterRequest q s).requesterBusy r = true := by
  rw [requesterBusy_iff] at h ⊢
  rw [enterRequest_path]
  refine h.imp_left fun ⟨p, hp, hr⟩ => ⟨p, ?_, hr⟩
  obtain ⟨-, e⟩ | ⟨-, e⟩ := enterRequest_engine q s
  · rw [e]; exact hp
  · rw [e]; exact List.mem_append_left _ hp

/-- After it enters, its requester has an access under way. -/
theorem requesterBusy_entered (q : Request) (s : State) : (enterRequest q s).requesterBusy q.requester = true := by
  obtain ⟨b, -⟩ | ⟨-, e⟩ := enterRequest_engine q s
  · exact requesterBusy_enterRequest b
  · exact requesterBusy_iff.2 (.inl ⟨q, by rw [e]; exact List.mem_append_right _ List.mem_cons_self, rfl⟩)

/-- Each deferred access finds its requester's earlier one. -/
def State.DeferredOk (s : State) : Prop := ∀ q ∈ s.engine.deferred, s.requesterBusy q.requester = true

theorem State.DeferredOk.enter {s : State} (h : s.DeferredOk) (q : Request) : (enterRequest q s).DeferredOk := by
  intro r hr
  obtain ⟨b, e⟩ | ⟨-, e⟩ := enterRequest_engine q s <;> rw [e] at hr
  · rcases List.mem_append.1 hr with hr | hr
    · exact requesterBusy_enterRequest (h r hr)
    · rw [List.mem_singleton.1 hr]; exact requesterBusy_entered q s
  · exact requesterBusy_enterRequest (h r hr)

theorem State.DeferredOk.withdraw {s : State} (h : s.DeferredOk) (r : Requester) : (withdrawRequest r s).DeferredOk := by
  intro q hq
  obtain ⟨hd, hne⟩ := List.mem_filter.1 hq
  rw [requesterBusy_iff]
  refine (requesterBusy_iff.1 (h q hd)).imp_left fun ⟨p, hp, hr⟩ => ⟨p, List.mem_filter.2 ⟨hp, ?_⟩, hr⟩
  rw [hr]; exact hne

/-! ## One access for each requester, one for Port M -/

/-- Each requester has at most one access in the list or on Port M, and a port is IN-FLIGHT when the access on Port M
is its own. -/
structure State.Separate (s : State) : Prop where
  portH : s.path.h.state = .inFlight ↔ ∃ m, s.path.portM = some m ∧ m.owner = .port .h
  portV : s.path.v.state = .inFlight ↔ ∃ m, s.path.portM = some m ∧ m.owner = .port .v
  once : (s.engine.requests.map (·.requester)).Nodup
  apart : ∀ q ∈ s.engine.requests, ∀ m, s.path.portM = some m → m.owner ≠ .engine q.requester

theorem State.Separate.alike {s t : State} (h : s.Separate) (k : Alike s t) : t.Separate :=
  { portH := by rw [k.portH.1, k.portM]; exact h.portH
    portV := by rw [k.portV.1, k.portM]; exact h.portV
    once := by rw [k.engine]; exact h.once
    apart := by rw [k.engine, k.portM]; exact h.apart }

theorem State.Separate.enter {s : State} (h : s.Separate) (q : Request) : (enterRequest q s).Separate := by
  obtain ⟨-, e⟩ | ⟨free, e⟩ := enterRequest_engine q s
  · exact ⟨by rw [enterRequest_path]; exact h.portH, by rw [enterRequest_path]; exact h.portV,
      by rw [e]; exact h.once, by rw [e, enterRequest_path]; exact h.apart⟩
  · have idle : ¬ ((∃ p ∈ s.engine.requests, p.requester = q.requester) ∨
        ∃ m, s.path.portM = some m ∧ m.owner = .engine q.requester) := by
      rw [← requesterBusy_iff, free]; exact Bool.false_ne_true
    refine ⟨by rw [enterRequest_path]; exact h.portH, by rw [enterRequest_path]; exact h.portV, ?_, ?_⟩
    · rw [e, List.map_append, List.nodup_append]
      refine ⟨h.once, List.nodup_singleton _, ?_⟩
      intro r hr r' hr' same
      obtain ⟨p, hp, rfl⟩ := List.mem_map.1 hr
      rw [List.map_singleton, List.mem_singleton] at hr'
      exact idle (.inl ⟨p, hp, same.trans hr'⟩)
    · rw [e, enterRequest_path]
      intro p hp m hm
      rcases List.mem_append.1 hp with hp | hp
      · exact h.apart p hp m hm
      · rw [List.mem_singleton.1 hp]
        exact fun own => idle (.inr ⟨m, hm, own⟩)

theorem State.Separate.withdraw {s : State} (h : s.Separate) (r : Requester) : (withdrawRequest r s).Separate :=
  { portH := h.portH
    portV := h.portV
    once := h.once.sublist (List.filter_sublist.map _)
    apart := fun q hq => h.apart q (List.mem_filter.1 hq).1 }

@[simp] theorem orphaned_owner (m : MAccess) : (orphaned m).owner = m.owner := by
  unfold orphaned
  split
  · rename_i h; exact h.symm ▸ rfl
  · rfl

theorem State.Separate.abandon {s : State} (h : s.Separate) : s.abandonEngine.Separate := by
  have owners : ∀ p, (∃ m, s.path.portM.map orphaned = some m ∧ m.owner = .port p) ↔
      ∃ m, s.path.portM = some m ∧ m.owner = .port p := by
    intro p
    cases s.path.portM <;> simp
  refine ⟨h.portH.trans (owners .h).symm, h.portV.trans (owners .v).symm, List.nodup_nil, ?_⟩
  intro q hq
  cases hq

theorem takeRule_separate : TakeRule State.Separate where
  alike k h := h.alike k
  enter _ h := h.enter _
  enterAny q _ h := h.enter q
  withdraw r _ h := h.withdraw r
  abandon h := h.abandon

/-- `Separate`, and each deferred access finds its requester's earlier one: all that R26 and R30 ask but that nobody
waits for a FREE Port M. -/
structure State.Consistent (s : State) : Prop extends s.Separate where
  deferred : s.DeferredOk

theorem State.Consistent.alike {s t : State} (h : s.Consistent) (k : Alike s t) : t.Consistent :=
  { h.toSeparate.alike k with
    deferred := by
      intro q hq
      rw [k.engine] at hq
      have busy := h.deferred q hq
      rw [requesterBusy_iff] at busy ⊢
      rw [k.engine, k.portM]
      exact busy }

theorem takeRule_consistent : TakeRule State.Consistent where
  alike k h := h.alike k
  enter _ h := { h.toSeparate.enter _ with deferred := h.deferred.enter _ }
  enterAny q _ h := { h.toSeparate.enter q with deferred := h.deferred.enter q }
  withdraw r _ h := { h.toSeparate.withdraw r with deferred := h.deferred.withdraw r }
  abandon h := { h.toSeparate.abandon with deferred := fun _ hq => nomatch hq }

/-- R30: after an access ends, the deferred accesses enter or wait on. -/
theorem State.Separate.promote {s : State} (h : s.Separate) : (promoteDeferred s).Consistent := by
  have all : ∀ (qs : List Request) (t : State), t.Consistent →
      (qs.foldl (fun t q => enterRequest q t) t).Consistent := by
    intro qs
    induction qs with
    | nil => exact fun _ ht => ht
    | cons q qs ih => exact fun t ht => ih _ (takeRule_consistent.enterAny q ht)
  exact all _ _ { portH := h.portH, portV := h.portV, once := h.once, apart := h.apart,
                  deferred := fun _ hq => nomatch hq }

/-! ## Port M's owner while words are taken -/

/-- The ports' states and responses, and whose access is on Port M, are as they were. -/
structure SamePorts (s t : State) : Prop where
  portH : t.path.h.state = s.path.h.state ∧ t.path.h.response = s.path.h.response
  portV : t.path.v.state = s.path.v.state ∧ t.path.v.response = s.path.v.response
  owner : t.path.portM.map (·.owner) = s.path.portM.map (·.owner)

theorem SamePorts.refl (s : State) : SamePorts s s := ⟨⟨rfl, rfl⟩, ⟨rfl, rfl⟩, rfl⟩

/-- No taking of words and no end of an engine access reaches them. -/
theorem takeRule_samePorts (s : State) : TakeRule (SamePorts s) where
  alike k h :=
    ⟨⟨k.portH.1.trans h.portH.1, k.portH.2.trans h.portH.2⟩, ⟨k.portV.1.trans h.portV.1, k.portV.2.trans h.portV.2⟩,
      by rw [k.portM]; exact h.owner⟩
  enter _ h := by constructor <;> rw [enterRequest_path] <;> [exact h.portH; exact h.portV; exact h.owner]
  enterAny q _ h := by constructor <;> rw [enterRequest_path] <;> [exact h.portH; exact h.portV; exact h.owner]
  withdraw _ _ h := ⟨h.portH, h.portV, h.owner⟩
  abandon {t} h := by
    refine ⟨h.portH, h.portV, Eq.trans ?_ h.owner⟩
    show (t.path.portM.map orphaned).map (·.owner) = _
    cases t.path.portM <;> simp

/-- A port's unit, read through the port. -/
theorem SamePorts.unit {s t : State} (h : SamePorts s t) (p : Port) :
    (t.portUnit p).state = (s.portUnit p).state ∧ (t.portUnit p).response = (s.portUnit p).response := by
  cases p
  · exact h.portH
  · exact h.portV

/-! ## Grants (R27) -/

/-- `Separate`, by port. -/
theorem State.Separate.port {s : State} (h : s.Separate) (p : Port) :
    (s.portUnit p).state = .inFlight ↔ ∃ m, s.path.portM = some m ∧ m.owner = .port p := by
  cases p
  · exact h.portH
  · exact h.portV

theorem State.Separate.mk_ports {s : State}
    (ports : ∀ p, (s.portUnit p).state = .inFlight ↔ ∃ m, s.path.portM = some m ∧ m.owner = .port p)
    (once : (s.engine.requests.map (·.requester)).Nodup)
    (apart : ∀ q ∈ s.engine.requests, ∀ m, s.path.portM = some m → m.owner ≠ .engine q.requester) : s.Separate :=
  ⟨ports .h, ports .v, once, apart⟩

/-- Port M given to an access of a port that is IN-FLIGHT, where no engine access is on it. -/
theorem State.Consistent.setPortM {s : State} {p : Port} (m : MAccess) (own : m.owner = .port p)
    (ports : ∀ q, (s.portUnit q).state = .inFlight ↔ q = p)
    (free : ∀ m, s.path.portM = some m → ∀ r, m.owner ≠ .engine r)
    (once : (s.engine.requests.map (·.requester)).Nodup) (deferred : s.DeferredOk) :
    (s.setPortM (some m)).Consistent := by
  refine ⟨.mk_ports (fun q => ?_) once ?_, ?_⟩
  · rw [State.setPortM_portUnit, ports]
    simp [own, eq_comm]
  · intro q _ m' hm
    obtain rfl := Option.some.inj hm
    rw [own]; exact Owner.noConfusion
  · intro q hq
    have busy := requesterBusy_iff.1 (deferred q hq)
    rw [requesterBusy_iff]
    refine busy.imp_right fun ⟨m', hm, e⟩ => absurd e (free m' hm _)

/-- R16, R27: a FREE Port M granted to a port. -/
theorem State.Consistent.grantPort {s : State} (h : s.Consistent) (free : s.path.portM = none) (p : Port) (x : Access) :
    (grantPort p x s).Consistent := by
  unfold Machine.grantPort
  dsimp only
  generalize hm : (MAccess.mk (.port p) x.addr (writes x.xfer) [] false) = m
  have own : m.owner = .port p := by rw [← hm]
  generalize hs : s.setPort p { s.portUnit p with state := .inFlight } = s0
  have none0 : s0.path.portM = none := by rw [← hs]; simp [free]
  have ports0 : ∀ q, (s0.portUnit q).state = .inFlight ↔ q = p := by
    intro q
    by_cases hq : q = p
    · subst hq; simp [← hs]
    · rw [← hs, State.setPort_portUnit_other s _ hq, h.port q, free]
      simp [hq]
  have granted : (s0.setPortM (some m)).Consistent := by
    refine .setPortM m own ports0 (by rw [none0]; intro _ e; cases e) (by rw [← hs]; simpa using h.once) ?_
    intro q hq
    have busy := h.deferred q (by rw [← hs] at hq; simpa using hq)
    rw [requesterBusy_iff] at busy ⊢
    rw [none0, ← hs]
    simpa [free] using busy
  have taken := takeRule_consistent.takeAccess p x granted
  have same := (takeRule_samePorts _).takeAccess p x (.refl (s0.setPortM (some m)))
  refine .setPortM _ rfl (fun q => ?_) ?_ taken.once taken.deferred
  · rw [(same.unit q).1]; exact ports0 q
  · intro m' hm' r
    have owner := same.owner
    rw [hm'] at owner
    have : m'.owner = m.owner := Option.some.inj owner
    rw [this, own]; exact Owner.noConfusion

/-- R30: a FREE Port M granted to an entry of the list. -/
theorem State.Consistent.grantEngine {s : State} (h : s.Consistent) (free : s.path.portM = none) {q : Request}
    (hq : q ∈ s.engine.requests) : (grantEngine q s).Consistent := by
  have others : ∀ r ∈ s.engine.requests.erase q, r.requester ≠ q.requester := by
    intro r hr same
    have perm : (s.engine.requests.map (·.requester)).Perm
        (q.requester :: (s.engine.requests.erase q).map (·.requester)) := (List.perm_cons_erase hq).map _
    exact (List.nodup_cons.1 (perm.nodup_iff.1 h.once)).1 (List.mem_map.2 ⟨r, hr, same⟩)
  refine ⟨.mk_ports (fun p => ?_) (h.once.sublist (List.erase_sublist.map _)) ?_, ?_⟩
  · have idle := h.port p
    rw [free] at idle
    refine (show (s.portUnit p).state = .inFlight ↔ _ from ?_)
    rw [idle]
    simp [Machine.grantEngine, engineAccess]
  · intro r hr m hm
    obtain rfl := Option.some.inj hm
    exact fun e => others r hr (Owner.engine.inj e).symm
  · intro d hd
    have busy := requesterBusy_iff.1 (h.deferred d hd)
    rw [requesterBusy_iff]
    rcases busy with ⟨r, hr, e⟩ | ⟨m, hm, -⟩
    · by_cases same : r = q
      · exact .inr ⟨_, rfl, by rw [← e, same]; rfl⟩
      · exact .inl ⟨r, (List.mem_erase_of_ne same).2 hr, e⟩
    · rw [free] at hm; cases hm

/-! ## Arbitration (R27 to R29) -/

theorem frontEntry_mem {s : State} {q : Request} (h : s.frontEntry = some q) : q ∈ s.engine.requests := by
  unfold State.frontEntry at h
  split at h
  · rename_i p hp
    exact Option.some.inj h ▸ List.mem_of_find?_eq_some hp
  · exact List.mem_of_mem_head? h

/-- R29: only an empty list has no front entry. -/
theorem frontEntry_none {s : State} (h : s.frontEntry = none) : s.engine.requests = [] := by
  unfold State.frontEntry at h
  split at h
  · cases h
  · exact List.head?_eq_none_iff.1 h

/-- What an arbitration can do: nothing, because Port M is BUSY or nobody waits; the grant of a waiting port; or the
grant of an entry of the list. `served` is the last served as it leaves it. -/
inductive Arbitrated (s : State) : State → Prop where
  | busy (h : s.path.portM.isSome = true) : Arbitrated s s
  | quiet (h : s.NoneWaits) : Arbitrated s s
  | port (p : Port) (x : Access) (served : Served) (free : s.path.portM = none)
      (h : (s.portUnit p).waiting? = some x) : Arbitrated s (grantPort p x (s.setServed served))
  | engine (q : Request) (served : Served) (free : s.path.portM = none) (noV : s.path.v.waiting? = none)
      (h : q ∈ s.engine.requests) : Arbitrated s (grantEngine q (s.setServed served))

@[simp] theorem setServed_same (s : State) : s.setServed s.path.lastServed = s := rfl

theorem arbitrateTurn_arbitrated {s : State} (free : s.path.portM = none) (noV : s.path.v.waiting? = none) :
    Arbitrated s (arbitrateTurn s) := by
  unfold arbitrateTurn
  split
  · rename_i x q hx hq
    split
    · exact .engine q .engine free noV (frontEntry_mem hq)
    · exact .port .h x .portH free hx
  · rename_i x hx _
    exact .port .h x .portH free hx
  · rename_i q _ hq
    exact .engine q .engine free noV (frontEntry_mem hq)
  · rename_i hh hf
    exact .quiet fun _ => ⟨hh, noV, frontEntry_none hf⟩

theorem arbitrate_arbitrated (s : State) : Arbitrated s (arbitrate s) := by
  unfold arbitrate
  split
  · rename_i h; exact .busy h
  · rename_i h
    have free : s.path.portM = none := by simpa using h
    split
    · rename_i x hx
      exact .port .v x s.path.lastServed free hx
    · rename_i noV
      split
      · rename_i q hq
        split
        · exact .engine q s.path.lastServed free noV (frontEntry_mem hq)
        · exact arbitrateTurn_arbitrated free noV
      · exact arbitrateTurn_arbitrated free noV

theorem State.Consistent.setServed {s : State} (h : s.Consistent) (x : Served) : (s.setServed x).Consistent :=
  h.alike ⟨rfl, rfl, rfl, ⟨rfl, rfl⟩, ⟨rfl, rfl⟩, le_max_left _ _⟩

/-- R26, R27, R30: what an arbitration leaves is consistent, and nobody waits for a FREE Port M. -/
theorem State.Consistent.arbitrate {s : State} (h : s.Consistent) : (arbitrate s).Consistent ∧ (arbitrate s).NoneWaits := by
  have step := arbitrate_arbitrated s
  revert step
  generalize Machine.arbitrate s = t
  intro step
  cases step with
  | busy b => exact ⟨h, fun free => by rw [free] at b; cases b⟩
  | quiet q => exact ⟨h, q⟩
  | port p x served free _ => exact ⟨(h.setServed served).grantPort free p x, nofun⟩
  | engine q served free _ hq => exact ⟨(h.setServed served).grantEngine free hq, nofun⟩

/-- R169: the end of STOPPING reaches neither the ports nor the engine. -/
theorem finishStopping_alike (s : State) : Alike s (finishStopping s) := by
  unfold finishStopping
  split
  · exact ⟨rfl, rfl, rfl, ⟨rfl, rfl⟩, ⟨rfl, rfl⟩, le_max_left _ _⟩
  · exact .of_path rfl rfl rfl rfl

theorem State.NoneWaits.alike {s t : State} (h : s.NoneWaits) (k : Alike s t) : t.NoneWaits := by
  intro free
  obtain ⟨hh, hv, he⟩ := h (k.portM ▸ free)
  unfold PortUnit.waiting? at hh hv ⊢
  rw [k.portH.1, k.portV.1, k.engine]
  exact ⟨hh, hv, he⟩

/-- The end of a command's event leaves a consistent path, and nobody waiting for a FREE Port M. -/
theorem State.Consistent.settle {s : State} (h : s.Consistent) : (settle s).PathOk := by
  obtain ⟨done, waits⟩ := (h.alike (finishStopping_alike s)).arbitrate
  have k := finishStopping_alike (Machine.arbitrate (finishStopping s))
  have c := done.alike k
  exact ⟨c.portH, c.portV, c.once, c.apart, c.deferred, waits.alike k⟩

theorem State.PathOk.consistent {s : State} (h : s.PathOk) : s.Consistent :=
  ⟨⟨h.portH, h.portV, h.once, h.apart⟩, h.deferred⟩

/-! ## Arrivals and ends -/

/-- A port that is not IN-FLIGHT takes another state that is not IN-FLIGHT. -/
theorem State.Consistent.setPort {s : State} (h : s.Consistent) {p : Port} {u : PortUnit}
    (old : (s.portUnit p).state ≠ .inFlight) (new : u.state ≠ .inFlight) : (s.setPort p u).Consistent := by
  refine ⟨.mk_ports (fun q => ?_) (by simpa using h.once) (by simpa using h.apart), ?_⟩
  · rw [State.setPort_path_portM, ← h.port q]
    by_cases hq : q = p
    · subst hq; simp [old, new]
    · rw [State.setPort_portUnit_other s u hq]
  · intro q hq
    have busy := h.deferred q (by simpa using hq)
    rw [requesterBusy_iff] at busy ⊢
    simpa using busy

theorem State.PathOk.receive {s : State} (h : s.PathOk) (p : Port) (x : Access) : (receive p x s).PathOk := by
  unfold Machine.receive
  split
  · rename_i idle
    split
    · exact (h.consistent.setPort (by rw [idle]; exact PortState.noConfusion) PortState.noConfusion).settle
    · have taken := takeRule_consistent.takeAccess p x h.consistent
      have same := ((takeRule_samePorts s).takeAccess p x (.refl s)).unit p
      exact (taken.setPort (by rw [same.1, idle]; exact PortState.noConfusion) PortState.noConfusion).settle
  · exact h

/-- R26: the access on Port M is gone, and its port, if it was a port's, IDLE. -/
theorem State.PathOk.endAccess {s : State} (h : s.PathOk) {m : MAccess} (hm : s.path.portM = some m) (e : Ending) :
    (endAccess m e s).PathOk := by
  have owner : ∀ p, (s.portUnit p).state = .inFlight ↔ m.owner = .port p := by
    intro p
    rw [h.consistent.port p, hm]
    simp
  unfold Machine.endAccess
  dsimp only
  split
  · rename_i p own
    refine Consistent.settle ⟨.mk_ports (fun q => ?_) (by simpa [respond] using h.once) ?_, ?_⟩
    · by_cases hq : q = p
      · subst hq; simp [respond]
      · unfold respond
        rw [State.setPort_portUnit_other _ _ hq, State.setPortM_portUnit, owner q, own]
        simp [Ne.symm hq]
    · intro q _ m' hm'
      simp [respond] at hm'
    · intro q hq
      have busy := requesterBusy_iff.1 (h.deferred q (by simpa [respond] using hq))
      rw [requesterBusy_iff]
      rcases busy with b | ⟨m', hm', own'⟩
      · exact .inl (by simpa [respond] using b)
      · rw [hm] at hm'
        rw [Option.some.inj hm', own'] at own
        cases own
  · rename_i r own
    refine ((takeRule_separate.engineEnd r m e ?_).promote).settle
    refine .mk_ports (fun p => ?_) h.once (by intro _ _ _ hm'; cases hm')
    rw [State.setPortM_portUnit, owner p, own]
    simp

theorem State.PathOk.answerIf {s : State} (h : s.PathOk) (p : Owner → Bool) (a : MemAnswer) :
    (answerIf p a s).PathOk := by
  unfold Machine.answerIf
  split
  · rename_i m hm
    split
    · exact h.endAccess hm _
    · exact h
  · exact h

theorem State.PathOk.hostWrites {s : State} (h : s.PathOk) (a : AsmId) (slot : Nat) (ws : List Word) :
    (hostWrites a slot ws s).PathOk := by
  unfold Machine.hostWrites
  split
  · exact h.receive _ _
  · exact h

theorem State.PathOk.lineEvent {s : State} (h : s.PathOk) (t : Timing) (v : Levels) (old : RefState)
    (x : FieldTimer) (work : List Task) : (settle (lineEvent t v old x work s)).PathOk :=
  (takeRule_consistent.lineEvent t v old x work h.consistent).settle

/-- R26, R32: a part after a reset. -/
theorem pathOk_afterReset (cause : ResetCause) (straps : Straps) (cs : List Instr) (n : Nat) :
    (State.afterReset cause straps cs n).PathOk :=
  { portH := by simp [State.afterReset, MemoryPath.reset, PortUnit.reset]
    portV := by simp [State.afterReset, MemoryPath.reset, PortUnit.reset]
    once := List.nodup_nil
    apart := nofun
    deferred := nofun
    waits := fun _ => ⟨rfl, rfl, rfl⟩ }

/-- Every command keeps the path consistent. -/
theorem State.PathOk.effect {s : State} (h : s.PathOk) (i : Instr) : (effect i s).PathOk := by
  cases i <;> dsimp only [Machine.effect]
  case powerOnReset straps => exact pathOk_afterReset _ _ _ _
  case resetPin straps => exact pathOk_afterReset _ _ _ _
  case realFp fo v =>
    unfold takeFp
    split
    · exact h.lineEvent _ _ _ _ _
    · exact h
  case realLp v =>
    unfold takeLp
    split
    · exact h.lineEvent _ _ _ _ _
    · exact h
  case synthesisedLine v =>
    unfold takeSynthesised
    split
    · split
      · exact h.lineEvent _ _ _ _ _
      · exact h
    · exact h
  case lpAbsence v =>
    unfold takeAbsence
    split
    · split
      · exact h.lineEvent _ _ _ _ _
      · exact h
    · exact h
  case upstreamAccess p x => exact h.receive p x
  case airWord0Read l n =>
    unfold readAir
    split
    · exact h.receive _ _
    · exact h
  case consumeIndexWrite x =>
    unfold writeConsume
    split
    · exact h.receive _ _
    · exact h
  case start rest => exact h.receive _ _
  case responseTimerExpiry =>
    unfold expire
    split
    · exact h.endAccess (by assumption) _
    · exact h
  case lateMemoryAnswer a => exact h
  all_goals first | exact h.hostWrites _ _ _ | exact h.answerIf _ _

/-- Settles O60: idling keeps the path, and so does each command by its kind: an arrival, an end of an access or a
line event, each of which ends in one arbitration. -/
theorem pathIsInvariant : Obligations.PathIsInvariant := by
  intro s t h e
  obtain ⟨-, rfl⟩ | ⟨c, rest, -, -, rfl⟩ := step_next e
  · exact h
  · have queued : (s.withPending rest).PathOk := ⟨h.portH, h.portV, h.once, h.apart, h.deferred, h.waits⟩
    exact queued.effect c

end Sys2Proof.Machine
end

section
/-!
The waiting commands and the staging queue: no command touches the one (log 5), and no command brings the other beyond
its capacity (R172).
-/
namespace Sys2Proof.Machine

/-- The waiting commands are the same, and the staging queue is no longer than it was, or within its capacity. -/
structure Handled (s t : State) : Prop where
  pending : t.pending = s.pending
  staging : t.report.staging.length ≤ max s.report.staging.length Config.stagingCap

theorem Handled.refl (s : State) : Handled s s := ⟨rfl, le_max_left _ _⟩

theorem Handled.trans {s t u : State} (h : Handled s t) (k : Handled t u) : Handled s u :=
  ⟨k.pending.trans h.pending, k.staging.trans (max_le h.staging (le_max_right _ _))⟩

theorem Handled.of_eq {s t : State} (p : t.pending = s.pending) (r : t.report = s.report) : Handled s t :=
  ⟨p, by rw [r]; exact le_max_left _ _⟩

theorem Alike.handled {s t : State} (h : Alike s t) : Handled s t := ⟨h.pending, h.staging⟩

theorem enterRequest_handled (q : Request) (s : State) : Handled s (enterRequest q s) := .of_eq (by simp) (by simp)

theorem takeRule_handled (s : State) : TakeRule (Handled s) where
  alike k h := h.trans k.handled
  enter _ h := h.trans (enterRequest_handled _ _)
  enterAny q _ h := h.trans (enterRequest_handled q _)
  withdraw _ _ h := h.trans (.of_eq rfl rfl)
  abandon h := h.trans (.of_eq rfl rfl)

theorem setPort_handled (s : State) (p : Port) (u : PortUnit) : Handled s (s.setPort p u) :=
  .of_eq (by simp) (by simp)

theorem takeAccess_handled (p : Port) (x : Access) (s : State) : Handled s (takeAccess p x s).1 :=
  (takeRule_handled s).takeAccess p x (.refl s)

theorem grantPort_handled (p : Port) (x : Access) (s : State) : Handled s (grantPort p x s) := by
  have granted : Handled s ((s.setPort p { s.portUnit p with state := .inFlight }).setPortM
      (some { owner := .port p, addr := x.addr, isWrite := writes x.xfer, words := [], orphan := false })) :=
    (setPort_handled s p _).trans (.of_eq rfl rfl)
  have taken := granted.trans (takeAccess_handled p x _)
  exact ⟨taken.pending, taken.staging⟩

theorem arbitrate_handled (s : State) : Handled s (arbitrate s) := by
  have step := arbitrate_arbitrated s
  revert step
  generalize arbitrate s = t
  intro step
  cases step with
  | busy _ => exact .refl s
  | quiet _ => exact .refl s
  | port p x served _ _ =>
    have marked : Handled s (s.setServed served) := .of_eq rfl rfl
    exact marked.trans (grantPort_handled p x _)
  | engine q served _ _ _ => exact .of_eq rfl rfl

theorem settle_handled (s : State) : Handled s (settle s) :=
  (finishStopping_alike s).handled.trans ((arbitrate_handled _).trans (finishStopping_alike _).handled)

theorem receive_handled (p : Port) (x : Access) (s : State) : Handled s (receive p x s) := by
  unfold receive
  split
  · split
    · exact (setPort_handled s p _).trans (settle_handled _)
    · exact (takeAccess_handled p x s).trans ((setPort_handled _ p _).trans (settle_handled _))
  · exact .refl s

theorem promoteDeferred_handled (s : State) : Handled s (promoteDeferred s) := by
  have all : ∀ (qs : List Request) (t : State), Handled s t → Handled s (qs.foldl (fun t q => enterRequest q t) t) := by
    intro qs
    induction qs with
    | nil => exact fun _ ht => ht
    | cons q qs ih => exact fun t ht => ih _ (ht.trans (enterRequest_handled q t))
  exact all _ _ (.of_eq rfl rfl)

theorem endAccess_handled (m : MAccess) (e : Ending) (s : State) : Handled s (endAccess m e s) := by
  have freed : Handled s (s.setPortM none) := .of_eq rfl rfl
  unfold endAccess
  dsimp only
  split
  · exact freed.trans ((setPort_handled _ _ _).trans (settle_handled _))
  · exact ((takeRule_handled s).engineEnd _ m e freed).trans
      ((promoteDeferred_handled _).trans (settle_handled _))

theorem answerIf_handled (p : Owner → Bool) (a : MemAnswer) (s : State) : Handled s (answerIf p a s) := by
  unfold answerIf
  split
  · split
    · exact endAccess_handled _ _ s
    · exact .refl s
  · exact .refl s

theorem hostWrites_handled (a : AsmId) (slot : Nat) (ws : List Word) (s : State) :
    Handled s (hostWrites a slot ws s) := by
  unfold hostWrites
  split
  · exact receive_handled _ _ s
  · exact .refl s

theorem lineEvent_handled (t : Timing) (v : Levels) (old : RefState) (x : FieldTimer) (work : List Task) (s : State) :
    Handled s (settle (lineEvent t v old x work s)) :=
  ((takeRule_handled s).lineEvent t v old x work (.refl s)).trans (settle_handled _)

/-- Every command leaves the waiting commands, and the staging queue within its capacity. -/
theorem effect_handled (i : Instr) (s : State) : Handled s (effect i s) := by
  cases i <;> dsimp only [effect]
  case powerOnReset straps => exact ⟨rfl, Nat.zero_le _⟩
  case resetPin straps => exact ⟨rfl, Nat.zero_le _⟩
  case realFp fo v =>
    unfold takeFp
    split
    · exact lineEvent_handled _ _ _ _ _ s
    · exact .refl s
  case realLp v =>
    unfold takeLp
    split
    · exact lineEvent_handled _ _ _ _ _ s
    · exact .refl s
  case synthesisedLine v =>
    unfold takeSynthesised
    split
    · split
      · exact lineEvent_handled _ _ _ _ _ s
      · exact .refl s
    · exact .refl s
  case lpAbsence v =>
    unfold takeAbsence
    split
    · split
      · exact lineEvent_handled _ _ _ _ _ s
      · exact .refl s
    · exact .refl s
  case upstreamAccess p x => exact receive_handled p x s
  case airWord0Read l n =>
    unfold readAir
    split
    · exact receive_handled _ _ s
    · exact .refl s
  case consumeIndexWrite x =>
    unfold writeConsume
    split
    · exact receive_handled _ _ s
    · exact .refl s
  case start rest => exact receive_handled _ _ s
  case responseTimerExpiry =>
    unfold expire
    split
    · exact endAccess_handled _ _ s
    · exact .refl s
  case lateMemoryAnswer a => exact .refl s
  all_goals first | exact hostWrites_handled _ _ _ s | exact answerIf_handled _ _ s

/-- R172: every step keeps the staging queue within its capacity. -/
theorem stagingOk_step {s t : State} (h : s.StagingOk) (e : step s = .next t) : t.StagingOk := by
  obtain ⟨-, rfl⟩ | ⟨c, rest, -, -, rfl⟩ := step_next e
  · exact h
  · exact (effect_handled c (s.withPending rest)).staging.trans (max_le h (Nat.le_refl _))

/-- Settles O2: a command answers its effect when its operands make one, and the effect keeps the waiting
commands. -/
theorem everyWellFormedCommandAnswersNext : Obligations.EveryWellFormedCommandAnswersNext := by
  intro i s
  refine ⟨fun wf => ⟨effect i s, exec_of_wf wf s, (effect_handled i s).pending⟩, fun ill => ?_⟩
  rw [exec_eq, ill]
  rfl

end Sys2Proof.Machine
end

section
/-!
What the pieces of a lane's work keep of the lane, said once for each: the capacities, L within D, the lane state and
the link mode (`Lane.Kept`); and, of those that are no business of the Pen Monitor, the pens too (`Lane.Aside`). The
Script Follower's work changes the follower alone (`Lane.FollowerOnly`).
-/
namespace Sys2Proof.Machine

/-! ## The relations -/

/-- `y` keeps the capacities of `x` (R67, R74, R92, R104, R140) and L within D (R82). -/
structure Lane.Sized (x y : Lane) : Prop where
  bounded : x.Bounded → y.Bounded
  timed : x.Timed → y.Timed

/-- And the lane state and the link mode of `x`. -/
structure Lane.Kept (x y : Lane) : Prop extends x.Sized y where
  state : y.hold.state = x.hold.state
  link : y.link = x.link

/-- And its pens. -/
structure Lane.Aside (x y : Lane) : Prop extends x.Kept y where
  pens : y.pens = x.pens

/-- `y` is `x` but for its follower. -/
def Lane.FollowerOnly (x y : Lane) : Prop := y = { x with follower := y.follower }

variable {x y z : Lane}

theorem Lane.Sized.refl (x : Lane) : x.Sized x := ⟨id, id⟩

theorem Lane.Sized.trans (h : x.Sized y) (k : y.Sized z) : x.Sized z :=
  ⟨k.bounded ∘ h.bounded, k.timed ∘ h.timed⟩

theorem Lane.Kept.refl (x : Lane) : x.Kept x := ⟨.refl x, rfl, rfl⟩

theorem Lane.Kept.trans (h : x.Kept y) (k : y.Kept z) : x.Kept z :=
  ⟨h.toSized.trans k.toSized, k.state.trans h.state, k.link.trans h.link⟩

/-- `trans` with the later change first: the order in which nested pieces of work are written. -/
theorem Lane.Kept.after (k : y.Kept z) (h : x.Kept y) : x.Kept z := h.trans k

theorem Lane.Aside.refl (x : Lane) : x.Aside x := ⟨.refl x, rfl⟩

theorem Lane.Aside.trans (h : x.Aside y) (k : y.Aside z) : x.Aside z :=
  ⟨h.toKept.trans k.toKept, k.pens.trans h.pens⟩

theorem Lane.Aside.after (k : y.Aside z) (h : x.Aside y) : x.Aside z := h.trans k

theorem Lane.FollowerOnly.refl (x : Lane) : x.FollowerOnly x := rfl

theorem Lane.FollowerOnly.trans (h : x.FollowerOnly y) (k : y.FollowerOnly z) : x.FollowerOnly z := by
  unfold Lane.FollowerOnly at *
  rw [k, h]

theorem Lane.FollowerOnly.after (k : y.FollowerOnly z) (h : x.FollowerOnly y) : x.FollowerOnly z := h.trans k

/-! ## One field changed -/

theorem Lane.followerOnly_set (x : Lane) (f : Follower) : x.FollowerOnly { x with follower := f } := rfl

theorem Lane.aside_follower (x : Lane) (f : Follower) : x.Aside { x with follower := f } :=
  ⟨⟨⟨fun b => ⟨b.hold, b.emission, b.standby, b.onsets, b.recent⟩, id⟩, rfl, rfl⟩, rfl⟩

theorem Lane.FollowerOnly.aside (h : x.FollowerOnly y) : x.Aside y := by
  unfold Lane.FollowerOnly at h
  rw [h]
  exact x.aside_follower _

/-- A queue of the hold block that stays within its capacity; state apart, the rest of the block is free. -/
theorem Lane.aside_hold (x : Lane) {h : Hold} (state : h.state = x.hold.state)
    (queue : x.hold.queue.length ≤ Config.holdCap → h.queue.length ≤ Config.holdCap) :
    x.Aside { x with hold := h } :=
  ⟨⟨⟨fun b => ⟨queue b.hold, b.emission, b.standby, b.onsets, b.recent⟩, id⟩, state, rfl⟩, rfl⟩

theorem Lane.aside_count (x : Lane) (f : Counters → Counters) : x.Aside (x.count f) := x.aside_hold rfl id

theorem Lane.aside_composer (x : Lane) {g : Composer}
    (emission : x.composer.emission.length ≤ Config.emissionCap → g.emission.length ≤ Config.emissionCap) :
    x.Aside { x with composer := g } :=
  ⟨⟨⟨fun b => ⟨b.hold, emission b.emission, b.standby, b.onsets, b.recent⟩, id⟩, rfl, rfl⟩, rfl⟩

theorem Lane.aside_tracker (x : Lane) {t : Tracker}
    (onsets : x.tracker.onsets.length ≤ Config.onsetCap → t.onsets.length ≤ Config.onsetCap)
    (timed : x.tracker.l ≤ x.tracker.d → t.l ≤ t.d) : x.Aside { x with tracker := t } :=
  ⟨⟨⟨fun b => ⟨b.hold, b.emission, b.standby, onsets b.onsets, b.recent⟩, timed⟩, rfl, rfl⟩, rfl⟩

theorem Lane.aside_recent (x : Lane) {r : Pair (List Half)}
    (recent : (∀ k, (x.recent.get k).length ≤ Config.recentCap) → ∀ k, (r.get k).length ≤ Config.recentCap) :
    x.Aside { x with recent := r } :=
  ⟨⟨⟨fun b => ⟨b.hold, b.emission, b.standby, b.onsets, recent b.recent⟩, id⟩, rfl, rfl⟩, rfl⟩

theorem Lane.kept_pens (x : Lane) {p : Pens}
    (standby : x.pens.standby.length ≤ Config.standbyCap → p.standby.length ≤ Config.standbyCap) :
    x.Kept { x with pens := p } :=
  ⟨⟨fun b => ⟨b.hold, b.emission, standby b.standby, b.onsets, b.recent⟩, id⟩, rfl, rfl⟩

/-! ## The same for work -/

section Work
variable (w : Work)

theorem Work.count_aside (f : Counters → Counters) : w.lane.Aside (w.count f).lane := w.lane.aside_count f

theorem Work.unmatched_aside (n : Nat) : w.lane.Aside (w.unmatched n).lane := by
  unfold Work.unmatched
  exact w.count_aside _

theorem Work.setTracker_aside {t : Tracker}
    (onsets : w.lane.tracker.onsets.length ≤ Config.onsetCap → t.onsets.length ≤ Config.onsetCap)
    (timed : w.lane.tracker.l ≤ w.lane.tracker.d → t.l ≤ t.d) : w.lane.Aside (w.setTracker t).lane :=
  w.lane.aside_tracker onsets timed

theorem Work.setHold_aside {h : Hold} (state : h.state = w.lane.hold.state)
    (queue : w.lane.hold.queue.length ≤ Config.holdCap → h.queue.length ≤ Config.holdCap) :
    w.lane.Aside (w.setHold h).lane := w.lane.aside_hold state queue

theorem Work.setComposer_aside {g : Composer}
    (emission : w.lane.composer.emission.length ≤ Config.emissionCap → g.emission.length ≤ Config.emissionCap) :
    w.lane.Aside (w.setComposer g).lane := w.lane.aside_composer emission

theorem Work.setPens_kept {p : Pens}
    (standby : w.lane.pens.standby.length ≤ Config.standbyCap → p.standby.length ≤ Config.standbyCap) :
    w.lane.Kept (w.setPens p).lane := w.lane.kept_pens standby

end Work

/-- A list of one pen slot that stays within its capacity. -/
theorem recent_set {r : Pair (List Half)} {k : SlotId} {ts : List Half}
    (new : (r.get k).length ≤ Config.recentCap → ts.length ≤ Config.recentCap)
    (h : ∀ j, (r.get j).length ≤ Config.recentCap) (j : SlotId) : ((r.set k ts).get j).length ≤ Config.recentCap := by
  rw [Pair.get_set]
  split
  · exact new (h k)
  · exact h j

/-! ## The Script Follower (chapter 8) -/

section Follower
variable (c : LaneCtx)

theorem refill_followerOnly (w : Work) : w.lane.FollowerOnly (refill c w).lane := by
  unfold refill
  dsimp only
  split
  · split
    · exact Lane.followerOnly_set _ _
    · exact .refl _
  · exact .refl _

theorem setFollower_followerOnly (f : Follower) (w : Work) : w.lane.FollowerOnly (w.setFollower f).lane := rfl

theorem restart_followerOnly (i : Nat) (w : Work) : w.lane.FollowerOnly (restart c i w).lane :=
  (Lane.followerOnly_set _ _).trans (refill_followerOnly c _)

theorem endIfReached_followerOnly (w : Work) : w.lane.FollowerOnly (endIfReached c w).lane := by
  unfold endIfReached
  dsimp only
  split
  · exact Lane.followerOnly_set _ _
  · exact .refl _

theorem burstPlaced_followerOnly (f : Fetch) (data : List Word) (w : Work) :
    w.lane.FollowerOnly (burstPlaced c f data w).lane := by
  unfold burstPlaced
  split
  · exact Lane.followerOnly_set _ _
  · dsimp only
    split
    · exact (Lane.followerOnly_set _ _).trans (refill_followerOnly c _)
    · exact (Lane.followerOnly_set _ _).trans (refill_followerOnly c _)

theorem burstEnd_followerOnly (data : Option (List Word)) (w : Work) :
    w.lane.FollowerOnly (burstEnd c data w).lane := by
  unfold burstEnd
  split
  · exact .refl _
  · split
    · exact (Lane.followerOnly_set _ _).trans (refill_followerOnly c _)
    · split
      · exact burstPlaced_followerOnly c _ _ w
      · exact Lane.followerOnly_set _ _

theorem seekStart_followerOnly (k : Half) (w : Work) : w.lane.FollowerOnly (seekStart k w).lane := by
  unfold seekStart
  dsimp only
  split
  · exact Lane.followerOnly_set _ _
  · exact Lane.followerOnly_set _ _
  · exact .refl _

theorem lockAt_followerOnly (i : Nat) (w : Work) : w.lane.FollowerOnly (lockAt c i w).lane :=
  (refill_followerOnly c _).after ((endIfReached_followerOnly c _).after (Lane.followerOnly_set _ _))

theorem seekToken_followerOnly (k : Half) (w : Work) : w.lane.FollowerOnly (seekToken c k w).lane := by
  unfold seekToken
  dsimp only
  split
  · exact seekStart_followerOnly k w
  · split
    · exact (Lane.followerOnly_set _ _).trans (seekStart_followerOnly k _)
    · exact Lane.followerOnly_set _ _
    · split
      · exact lockAt_followerOnly c _ w
      · exact Lane.followerOnly_set _ _

theorem missToken_followerOnly (w : Work) : w.lane.FollowerOnly (missToken c w).lane := by
  unfold missToken
  dsimp only
  split
  · exact Lane.followerOnly_set _ _
  · exact Lane.followerOnly_set _ _

theorem lockedToken_followerOnly (k : Half) (t : Shown) (w : Work) :
    w.lane.FollowerOnly (lockedToken c k t w).1.lane := by
  unfold lockedToken
  dsimp only
  split
  · exact (endIfReached_followerOnly c _).after ((refill_followerOnly c _).after (Lane.followerOnly_set _ _))
  · exact Lane.followerOnly_set _ _
  · exact missToken_followerOnly c w

/-- R128: step 2 of admission. -/
theorem compareToken_followerOnly (t : Shown) (w : Work) : w.lane.FollowerOnly (compareToken c t w).1.lane := by
  unfold compareToken
  dsimp only
  split
  · exact .refl _
  · split
    · exact .refl _
    · exact seekToken_followerOnly c _ w
    · exact lockedToken_followerOnly c _ t w
    · exact .refl _
    · exact .refl _

theorem acceptUncue_followerOnly (w : Work) : w.lane.FollowerOnly (acceptUncue w).lane := by
  unfold acceptUncue
  dsimp only
  split
  · exact .refl _
  · exact Lane.followerOnly_set _ _

theorem unlockFollower_followerOnly (cause : ScriptCause) (w : Work) :
    w.lane.FollowerOnly (unlockFollower c cause w).lane := by
  rw [unlockFollower_lane]
  exact Lane.followerOnly_set _ _

/-- R121 step 2: taking script indices away shortens no list. -/
theorem stripScripts_aside (x : Lane) : x.Aside x.stripScripts :=
  (x.aside_hold (h := { x.hold with queue := x.hold.queue.map Tok.strip }) rfl (by simp)).trans
    (Lane.aside_composer _ (by simp))

theorem acceptCue_aside (first count : Nat) (w : Work) : w.lane.Aside (acceptCue c first count w).lane :=
  (restart_followerOnly c first _).aside.after ((Lane.aside_follower _ _).after (stripScripts_aside _))

end Follower

/-! ## The Page Composer (chapter 9) -/

section Composer
variable (c : LaneCtx)

/-- R145: a placed cell makes the queue no longer. -/
theorem placeChar_emission (g : Composer) (e : Entry) (rest : List Entry) (a b : Bool) :
    (placeChar g e rest a b).composer.emission.length ≤ rest.length + 1 := by
  unfold placeChar
  dsimp only
  split
  · exact Nat.le_succ _
  · exact Nat.le_refl _

theorem nextCell_emission (g : Composer) (e : Entry) (rest : List Entry) :
    (nextCell g e rest).composer.emission.length ≤ rest.length + 1 := by
  unfold nextCell
  dsimp only
  split
  · split
    · exact placeChar_emission _ _ _ _ _
    · exact Nat.le_refl _
    · exact Nat.le_refl _
  · split
    · exact Nat.le_refl _
    · exact placeChar_emission _ _ _ _ _

theorem placeEntries_emission (n : Nat) (g : Composing) :
    (placeEntries n g).composer.emission.length ≤ g.composer.emission.length := by
  induction n generalizing g with
  | zero => exact Nat.le_refl _
  | succ n ih =>
    unfold placeEntries
    split
    · exact Nat.le_refl _
    · rename_i e rest he
      refine (ih _).trans ?_
      rw [he]
      exact nextCell_emission _ e rest

theorem placeClear_emission (g : Composing) : (placeClear g).composer.emission = g.composer.emission := by
  unfold placeClear
  split <;> rfl

theorem freshCells_emission (state : LaneState) (g : Composer) (k : Counters) :
    (freshCells state g k).composer.emission.length ≤ g.emission.length := by
  have clear := placeClear_emission { composer := g, counters := k, cells := [] }
  unfold freshCells
  dsimp only
  split
  · split
    · exact (placeEntries_emission _ _).trans (by rw [← clear]; exact Nat.le_refl _)
    · rw [← clear]; exact Nat.le_refl _
  · rw [clear]

theorem finishComposition_aside (target : Field) (r t twin : Bool) (cells : List Cell) (budget : Nat) (w : Work) :
    w.lane.Aside (finishComposition target r t twin cells budget w).lane := Lane.aside_composer _ id

theorem composeFresh_aside (target : Field) (w : Work) : w.lane.Aside (composeFresh target w).lane :=
  (finishComposition_aside _ _ _ _ _ _ _).after ((Work.count_aside _ _).after
    (w.setComposer_aside fun h => (freshCells_emission _ _ _).trans h))

theorem composeRepeat_aside (target : Field) (w : Work) : w.lane.Aside (composeRepeat target w).lane :=
  (finishComposition_aside _ _ _ _ _ _ _).after ((Work.count_aside _ _).after (w.setComposer_aside id))

theorem countUnopened_aside (w : Work) : w.lane.Aside (countUnopened c w).lane := by
  unfold countUnopened
  dsimp only
  split
  · exact .refl _
  · split
    · exact Lane.aside_composer _ id
    · exact Lane.aside_composer _ id

theorem composeJudged_aside (m : Bool) (target : Field) (w : Work) :
    w.lane.Aside (composeJudged c m target w).lane := by
  unfold composeJudged
  split
  · exact composeFresh_aside target w
  · split
    · exact (countUnopened_aside c w).trans (composeFresh_aside target _)
    · exact (countUnopened_aside c w).trans (composeRepeat_aside target _)

theorem compose_aside (fr : Bool) (target : Field) (p : Parity) (w : Work) :
    w.lane.Aside (compose c fr target p w).lane := by
  unfold compose
  dsimp only
  split
  · split
    · exact finishComposition_aside _ _ _ _ _ _ _
    · exact composeJudged_aside c _ target w
  · exact composeJudged_aside c _ target w

theorem takeCompose_aside (fr : Bool) (p : Parity) (w : Work) : w.lane.Aside (takeCompose fr p c w).lane := by
  unfold takeCompose
  split
  · exact .refl _
  · exact compose_aside c fr _ p w

theorem composerFieldStart_aside (fr : Bool) (p : Parity) (w : Work) :
    w.lane.Aside (composerFieldStart fr p c w).lane := by
  refine Lane.Aside.trans ?_ (Lane.aside_composer _ id)
  split
  · exact .refl _
  · exact compose_aside c fr _ p w

theorem lateRead_aside (w : Work) : w.lane.Aside (lateRead c w).lane :=
  w.count_aside fun k => { k with lateReads := k.lateReads + 1 }

/-- R149, R22: an opening. -/
theorem openActive_aside (fr : Bool) (w : Work) : w.lane.Aside (openActive fr c w).lane := by
  have opened : w.lane.Aside { w.lane with composer := { w.lane.composer with
      latch := some w.lane.composer.active, opened := true,
      pairOpened := fr || w.lane.composer.pairOpened, unopened := 0 } } := Lane.aside_composer _ id
  unfold openActive
  dsimp only
  split
  · refine (lateRead_aside c _).after ?_
    split <;> exact opened
  · split <;> exact opened

end Composer

/-! ## The Latency Tracker (chapter 5) -/

/-- R79: the estimate stays within 0 to D. -/
theorem stepEstimate_le (s d l m : Nat) : stepEstimate s d l m ≤ d := by
  unfold stepEstimate
  dsimp only
  generalize (l : Int) + _ = next
  split
  · exact Nat.zero_le d
  · split <;> omega

section Tracker
variable (c : LaneCtx)

theorem enterOnset_aside (w : Work) : w.lane.Aside (enterOnset c w).lane := by
  unfold enterOnset
  dsimp only
  split
  · exact .refl _
  · split
    · exact .refl _
    · split
      · rename_i room
        exact Lane.aside_tracker _ (fun _ => by simpa using Nat.succ_le_of_lt room) id
      · refine (Work.unmatched_aside _ 1).after (Work.setTracker_aside _ (fun h => ?_) id)
        have : 0 < w.lane.tracker.onsets.length := by
          rename_i full
          exact Nat.lt_of_lt_of_le (by decide) (Nat.not_lt.1 full)
        simp only [List.length_append, List.length_tail, List.length_singleton]
        omega

theorem measure_aside (tag : Half) (a o : Field) (w : Work) : w.lane.Aside (measure c tag a o w).lane := by
  unfold measure
  dsimp only
  split
  · exact Lane.aside_tracker _ id fun _ => Nat.min_le_right _ _
  · exact Lane.aside_tracker _ id fun _ => stepEstimate_le _ _ _ _

theorem pairStart_aside (tag : Half) (a : Field) (w : Work) : w.lane.Aside (pairStart c tag a w).lane := by
  have kept : w.lane.Aside (w.setTracker { w.lane.tracker with
      onsets := w.lane.tracker.onsets.filter fun o => !tooOld w.lane.tracker.lmax a o }).lane :=
    w.setTracker_aside (fun h => (List.length_filter_le _ _).trans h) id
  unfold pairStart
  dsimp only
  split
  · exact (Work.unmatched_aside _ _).after kept
  · refine (measure_aside c _ _ _ _).after ((Work.unmatched_aside _ _).after ?_)
    refine (Work.setTracker_aside _ (fun h => ?_) ?_).after ((Work.unmatched_aside _ _).after kept)
    · exact (List.length_drop ▸ Nat.sub_le _ _).trans h
    · exact id

/-- R76, R77, R78: step 1 of admission. -/
theorem startAndPair_aside (fromList gap : Bool) (tag : Half) (a : Field) (w : Work) :
    w.lane.Aside (startAndPair c fromList gap tag a w).lane := by
  refine Lane.Aside.trans ?_ (Lane.aside_tracker _ id id)
  split
  · exact .refl _
  · dsimp only
    have begun : w.lane.Aside (w.setTracker { w.lane.tracker with startPending := false }).lane :=
      Lane.aside_tracker _ id id
    split
    · exact begun.trans (pairStart_aside c tag a _)
    · exact begun

end Tracker

/-! ## The Hold Queue (chapter 6) -/

section Hold
variable (c : LaneCtx)

theorem giveTag_aside (w : Work) : w.lane.Aside (giveTag w).1.lane := Lane.aside_hold _ rfl id

/-- R91 step 4, R96. -/
theorem enterHold_aside (t : Tok) (w : Work) : w.lane.Aside (enterHold t w).1.lane := by
  unfold enterHold
  dsimp only
  split
  · rename_i room
    exact Lane.aside_hold _ rfl fun _ => by simpa using Nat.succ_le_of_lt room
  · split
    · rename_i room
      split
      · exact Lane.aside_hold _ rfl fun _ => (by decide : 1 ≤ Config.holdCap)
      · rename_i t' ts queue
        refine (w.lane.aside_composer (g := w.lane.composer.append t') fun _ => ?_).trans (Lane.aside_hold _ rfl fun h => ?_)
        · simpa [Composer.append] using Nat.succ_le_of_lt room
        · have length : w.lane.hold.queue.length ≤ Config.holdCap := h
          rw [queue] at length
          simpa using length
    · exact Lane.aside_hold _ rfl id

/-- R104: a recent list never grows beyond its 8 tags. -/
theorem pushRecent_length {tag : Half} {ts : List Half} (h : ts.length ≤ Config.recentCap) :
    (pushRecent tag ts).length ≤ Config.recentCap := by
  unfold pushRecent
  split
  · rename_i room
    simpa using Nat.succ_le_of_lt room
  · rename_i full
    have : 0 < ts.length := Nat.lt_of_lt_of_le (by decide) (Nat.not_lt.1 full)
    simp only [List.length_append, List.length_tail, List.length_singleton]
    omega

/-- R91: admission. -/
theorem admitCandidate_aside (slot : SlotId) (fromList : Bool) (t : Candidate) (w : Work) :
    w.lane.Aside (admitCandidate c slot fromList t w).1.lane :=
  (startAndPair_aside c fromList t.gap t.tag t.arrival w).trans
    ((compareToken_followerOnly c _ _).aside.trans
      ((enterHold_aside _ _).trans (Lane.aside_recent _ (recent_set pushRecent_length))))

/-- R94: as many heads as there is room for, and what they leave. -/
theorem splitDue_length (now : Field) (n : Nat) (q : List Tok) :
    (splitDue now n q).1.length ≤ n ∧ (splitDue now n q).2.length ≤ q.length := by
  induction n generalizing q with
  | zero => exact ⟨Nat.le_refl _, by unfold splitDue; exact Nat.le_refl _⟩
  | succ n ih =>
    cases q with
    | nil => exact ⟨Nat.zero_le _, Nat.le_refl _⟩
    | cons t ts =>
      unfold splitDue
      split
      · exact ⟨Nat.succ_le_succ (ih ts).1, (ih ts).2.trans (Nat.le_succ _)⟩
      · exact ⟨Nat.zero_le _, Nat.le_refl _⟩

theorem release_aside (w : Work) : w.lane.Aside (release c w).lane := by
  unfold release
  dsimp only
  split
  · have moved := splitDue_length c.now (Config.emissionCap - w.lane.composer.emission.length) w.lane.hold.queue
    refine (w.lane.aside_composer fun h => ?_).trans (Lane.aside_hold _ rfl fun h => moved.2.trans h)
    simp only [List.length_append, List.length_map]
    omega
  · exact .refl _

theorem reportOverrun_aside (w : Work) : w.lane.Aside (reportOverrun c w).lane := by
  have cleared : w.lane.Aside { w.lane with hold := { w.lane.hold with tallyEarly := 0, tallyDiscard := 0 } } :=
    Lane.aside_hold _ rfl id
  unfold reportOverrun
  dsimp only
  split <;> exact cleared

theorem holdFieldStart_aside (w : Work) : w.lane.Aside (holdFieldStart c w).lane :=
  (reportOverrun_aside c w).trans (release_aside c _)

/-- R98, R160: the emptying of a lane. -/
theorem emptyLane_kept (cause : DiscardCause) (w : Work) : w.lane.Kept (emptyLane cause w).lane where
  bounded _ := by
    refine ⟨Nat.zero_le _, Nat.zero_le _, Nat.zero_le _, Nat.zero_le _, fun k => ?_⟩
    cases k <;> exact Nat.zero_le _
  timed := id
  state := rfl
  link := rfl

theorem flushLane_kept (w : Work) : w.lane.Kept (flushLane c w).lane :=
  (unlockFollower_followerOnly c .flush _).aside.toKept.after
    ((Work.setTracker_aside _ (t := (emptyLane .flush w).lane.tracker.beginAfresh) id id).toKept.after (emptyLane_kept .flush w))

end Hold

/-! ## The Correction Unit (chapter 7) -/

section Correction
variable (c : LaneCtx)

theorem retractHold_aside (tag : Half) (g : Correcting) : g.work.lane.Aside (retractHold tag g).work.lane :=
  (Work.count_aside _ _).after (Work.setHold_aside _ rfl fun h => (List.eraseP_sublist.length_le).trans h)

theorem retractEmission_aside (tag : Half) (g : Correcting) :
    g.work.lane.Aside (retractEmission tag g).work.lane :=
  (Work.count_aside _ _).after (Work.setComposer_aside _ fun h => (List.eraseP_sublist.length_le).trans h)

theorem retractOff_aside (g : Correcting) (tag : Half) : g.work.lane.Aside (retractOff g tag).work.lane := by
  unfold retractOff
  split
  · exact retractHold_aside tag g
  · exact retractEmission_aside tag g
  · exact .refl _
  · exact .refl _
  · exact .refl _
  · exact .refl _

theorem retractAll_aside (tags : List Half) (g : Correcting) :
    g.work.lane.Aside (tags.foldl retractOff g).work.lane := by
  induction tags generalizing g with
  | nil => exact .refl _
  | cons t ts ih => exact (retractOff_aside g t).trans (ih _)

/-- R112: a head sent whole again. -/
theorem resetHead_length (es : List Entry) : (resetHead es).length = es.length := by cases es <;> rfl

/-- R111 step 2: an erasure that fits keeps the queue within its capacity. -/
theorem erase_aside {shown : List Half} {p : Span} {g : Correcting}
    (fits : erasureFits shown p g.work.lane.composer = true) : g.work.lane.Aside (erase shown p g).work.lane := by
  refine (Work.count_aside _ _).after (Work.setComposer_aside _ fun _ => ?_)
  unfold erasureFits at fits
  dsimp only at fits ⊢
  rw [decide_eq_true_iff] at fits
  rw [List.length_append, List.length_map]
  by_cases head : g.work.lane.composer.headSpan.any (Span.selected shown) = true
  · rw [if_pos head] at fits
    rw [if_pos head, List.length_tail, Nat.add_comm]
    exact fits
  · rw [if_neg head] at fits
    rw [if_neg head, Nat.add_comm]
    split
    · rw [resetHead_length]; exact fits
    · exact fits

theorem eraseShown_aside (tags : List Half) (g : Correcting) : g.work.lane.Aside (eraseShown tags g).work.lane := by
  unfold eraseShown
  dsimp only
  split
  · exact .refl _
  · split
    · rename_i fits
      exact erase_aside fits
    · exact .refl _

theorem appendMarker_aside (g : Correcting) : g.work.lane.Aside (appendMarker g).work.lane := by
  unfold appendMarker
  dsimp only
  split
  · rename_i h
    rw [Bool.and_eq_true, decide_eq_true_iff] at h
    exact Lane.aside_composer _ fun _ => by simpa using Nat.succ_le_of_lt h.2
  · exact .refl _

theorem setCursorBack_aside (g : Correcting) : g.work.lane.Aside (setCursorBack c g).work.lane := by
  unfold setCursorBack
  split
  · split
    · exact ((restart_followerOnly c _ _).after (setFollower_followerOnly _ _)).aside
    · exact .refl _
  · exact .refl _

/-- R106: a CORRECT from the floor slot. -/
theorem correctUnit_aside (k : SlotId) (n : Nat) (w : Work) : w.lane.Aside (correctUnit c k n w).1.lane := by
  have selected : w.lane.Aside
      { w.lane with recent := w.lane.recent.set k (selectTags n (w.lane.recent.get k)).2 } :=
    Lane.aside_recent _ (recent_set fun h => (List.length_take_le' _ _).trans h)
  exact (setCursorBack_aside c _).after ((appendMarker_aside _).after ((eraseShown_aside _ _).after
    ((retractAll_aside _ _).after selected)))

end Correction

end Sys2Proof.Machine
end

section
/-!
O57. The pieces of the Pen Monitor's work, of record processing and of Override Control keep the capacities and L
within D, and all but those of Override Control keep the lane state; so every step does.
-/
namespace Sys2Proof.Machine

section Pens
variable (c : LaneCtx)

/-! ## Health and silence -/

theorem setSlot_kept (k : SlotId) (p : PenSlot) (w : Work) : w.lane.Kept (w.setSlot k p).lane := w.lane.kept_pens id

theorem standbyDiscards_aside (n : Nat) (w : Work) : w.lane.Aside (w.standbyDiscards n).lane := w.count_aside _

theorem reportHealth_lane (k : SlotId) (old : Health) (cause : HealthCause) (w : Work) :
    (reportHealth c k old cause w).lane = w.lane := by
  unfold reportHealth
  dsimp only
  split <;> rfl

theorem setFault_kept (k : SlotId) (n : Nat) (cause : HealthCause) (w : Work) :
    w.lane.Kept (setFault c k n cause w).lane := by
  unfold setFault
  dsimp only
  rw [reportHealth_lane]
  exact setSlot_kept k _ w

theorem chargeBad_kept (k : SlotId) (w : Work) : w.lane.Kept (chargeBad c k w).lane := by
  unfold chargeBad
  split
  · exact .refl _
  · exact setFault_kept c k _ _ w

theorem chargeGood_kept (k : SlotId) (w : Work) : w.lane.Kept (chargeGood c k w).lane := by
  unfold chargeGood
  split
  · exact .refl _
  · exact setFault_kept c k _ _ w

/-! ## The floor -/

theorem handToAdmission_kept (k : SlotId) (fromList : Bool) (t : Candidate) (w : Work) :
    w.lane.Kept (handToAdmission c k fromList t w).1.lane :=
  (admitCandidate_aside c k fromList t w).toKept.trans (setSlot_kept k _ _)

theorem resolveEntry_kept (new : SlotId) (reference : Option Field) (w : Work) (e : StandbyEntry) :
    w.lane.Kept (resolveEntry c new reference w e).lane := by
  unfold resolveEntry
  split
  · exact handToAdmission_kept c new true _ w
  · exact (standbyDiscards_aside 1 w).toKept

theorem resolveEntries_kept (new : SlotId) (reference : Option Field) (es : List StandbyEntry) (w : Work) :
    w.lane.Kept (es.foldl (resolveEntry c new reference) w).lane := by
  induction es generalizing w with
  | nil => exact .refl _
  | cons e es ih => exact (resolveEntry_kept c new reference w e).trans (ih _)

theorem resolveStandby_kept (new : SlotId) (w : Work) : w.lane.Kept (resolveStandby c new w).lane :=
  (resolveEntries_kept c _ _ _ _).after (w.setPens_kept fun _ => Nat.zero_le _)

theorem transfer_kept (new : SlotId) (cause : FloorCause) (w : Work) :
    w.lane.Kept (transfer c new cause w).lane := by
  refine (Work.setPens_kept _ ?_).after ((Work.setTracker_aside _ ?_ ?_).toKept.after
    ((resolveStandby_kept c new _).after ((setSlot_kept new _ _).after ?_)))
  · exact id
  · exact id
  · exact id
  · split
    · exact setSlot_kept _ _ w
    · exact .refl _

theorem vacate_kept (k : SlotId) (w : Work) : w.lane.Kept (vacate c k w).lane := by
  refine (Work.setPens_kept _ ?_).after (setSlot_kept k _ w)
  exact id

theorem failover_kept (w : Work) : w.lane.Kept (failover c w).lane := by
  unfold failover
  split
  · exact .refl _
  · split
    · exact .refl _
    · dsimp only
      split
      · split
        · exact transfer_kept c _ _ w
        · exact vacate_kept c _ w
      · split
        · exact transfer_kept c _ _ w
        · exact .refl _

/-! ## FIELD-START -/

theorem pruneStandby_kept (w : Work) : w.lane.Kept (pruneStandby c w).lane :=
  (standbyDiscards_aside _ _).toKept.after (w.setPens_kept fun h => (List.length_filter_le _ _).trans h)

theorem markSilence_kept (w : Work) : w.lane.Kept (markSilence c w).lane := w.setPens_kept id

theorem lapseHandover_kept (w : Work) : w.lane.Kept (lapseHandover c w).lane := by
  unfold lapseHandover
  split
  · split
    · exact w.setPens_kept id
    · exact .refl _
  · exact .refl _
  · exact .refl _

theorem pensFieldStart_kept (w : Work) : w.lane.Kept (pensFieldStart c w).lane :=
  (failover_kept c _).after ((lapseHandover_kept c _).after ((markSilence_kept c _).after (pruneStandby_kept c w)))

/-! ## Effects of records -/

/-- R67: the oldest of 32 entries leaves first. -/
theorem listToken_kept (k : SlotId) (r : IngestRecord) (w : Work) : w.lane.Kept (listToken k r w).lane := by
  refine ⟨⟨fun b => ⟨?_, ?_, ?_, ?_, ?_⟩, fun h => ?_⟩, ?_, ?_⟩ <;> unfold listToken <;> dsimp only <;> split
  · exact b.hold
  · exact b.hold
  · exact b.emission
  · exact b.emission
  · rename_i room
    simpa [giveTag, Work.setPens, Work.setHold] using Nat.succ_le_of_lt room
  · rename_i full
    have := b.standby
    have : 0 < w.lane.pens.standby.length := Nat.lt_of_lt_of_le (by decide) (Nat.not_lt.1 full)
    simp only [giveTag, Work.setPens, Work.setHold, Work.standbyDiscards, Work.count, Lane.count,
      List.length_append, List.length_tail, List.length_singleton]
    omega
  · exact b.onsets
  · exact b.onsets
  · exact b.recent
  · exact b.recent
  · exact h
  · exact h
  · rfl
  · rfl
  · rfl
  · rfl

theorem admitToken_kept (k : SlotId) (r : IngestRecord) (w : Work) : w.lane.Kept (admitToken c k r w).1.lane :=
  (handToAdmission_kept c k _ _ _).after (giveTag_aside w).toKept

theorem tokenEffect_kept (k : SlotId) (r : IngestRecord) (w : Work) :
    w.lane.Kept (tokenEffect c k r w).1.lane := by
  unfold tokenEffect
  split
  · exact admitToken_kept c k r w
  · split
    · split
      · exact (admitToken_kept c k r _).after (transfer_kept c k _ w)
      · exact .refl _
    · exact listToken_kept k r w
    · exact listToken_kept k r w

/-- R69: a CORRECT makes the standby list no longer. -/
theorem dropNewest_sublist (k : SlotId) (n : Nat) (es : List StandbyEntry) : (dropNewest k n es).Sublist es := by
  induction es generalizing n with
  | nil => cases n <;> exact .slnil
  | cons e es ih =>
    cases n with
    | zero => exact .refl _
    | succ n =>
      unfold dropNewest
      split
      · exact (ih n).cons e
      · exact (ih (n + 1)).cons_cons e

theorem dropNewest_kept_sublist (k : SlotId) (n : Nat) (es : List StandbyEntry) :
    (dropNewest k n es.reverse).reverse.Sublist es := by
  simpa using (dropNewest_sublist k n es.reverse).reverse

theorem standbyCorrect_kept (k : SlotId) (n : Nat) (w : Work) : w.lane.Kept (standbyCorrect k n w).1.lane :=
  (standbyDiscards_aside _ _).toKept.after
    (w.setPens_kept fun h => (dropNewest_kept_sublist k n _).length_le.trans h)

theorem offerEffect_kept {k : SlotId} {w w' : Work} (h : offerEffect c k w = some w') : w.lane.Kept w'.lane := by
  unfold offerEffect at h
  dsimp only at h
  split at h
  · split at h
    · cases h
    · cases h; exact w.setPens_kept id
    · cases h; exact w.setPens_kept id
  · cases h

theorem takeEffect_transfer {k : SlotId} {w w' : Work} (h : takeEffect c k w = some w') :
    (w.slot k).eligible = true ∧ (w.slot k).role ≠ .floor ∧ w' = transfer c k .take w := by
  unfold takeEffect at h
  dsimp only at h
  split at h
  · cases h
  · rename_i able
    simp only [Bool.or_eq_true, Bool.not_eq_true', decide_eq_true_iff, not_or, Bool.not_eq_false] at able
    refine ⟨able.2, able.1, ?_⟩
    split at h
    · exact (Option.some.inj h).symm
    · exact (Option.some.inj h).symm
    · split at h
      · exact (Option.some.inj h).symm
      · cases h

theorem recordEffect_kept (k : SlotId) (kind : IngestKind) (r : IngestRecord) (gap : Bool) (w : Work) :
    w.lane.Kept (recordEffect c k kind r gap w).1.lane := by
  unfold recordEffect
  cases kind <;> dsimp only
  case token =>
    split
    · exact (w.count_aside _).toKept
    · exact tokenEffect_kept c k r w
  case correct =>
    split
    · exact (correctUnit_aside c k _ w).toKept
    · exact standbyCorrect_kept k _ w
  case offer =>
    split
    · rename_i taken
      exact offerEffect_kept c taken
    · exact .refl _
  case take =>
    split
    · rename_i taken
      obtain ⟨-, -, rfl⟩ := takeEffect_transfer c taken
      exact transfer_kept c k _ w
    · exact .refl _
  case keepalive => exact .refl _

theorem barredEffect_kept (k : SlotId) (kind : IngestKind) (gap : Bool) (w : Work) :
    w.lane.Kept (barredEffect c k kind gap w).1.lane := by
  unfold barredEffect
  dsimp only
  generalize (if gap then 0 else _ : Nat) = run
  split
  · exact (setFault_kept c k _ _ _).after (setSlot_kept k _ w)
  · exact setSlot_kept k _ w

theorem afterSequence_kept (k : SlotId) (kind : IngestKind) (r : IngestRecord) (gap : Bool) (w : Work) :
    w.lane.Kept (afterSequence c k kind r gap w).1.lane := by
  unfold afterSequence
  split
  · exact barredEffect_kept c k kind gap w
  · exact recordEffect_kept c k kind r gap w

theorem wellFormedRecord_kept (k : SlotId) (kind : IngestKind) (r : IngestRecord) (w : Work) :
    w.lane.Kept (wellFormedRecord c k kind r w).1.lane := by
  have heard : w.lane.Kept (hear c k w).lane := setSlot_kept k _ w
  unfold wellFormedRecord
  dsimp only
  split
  · exact heard
  · exact (afterSequence_kept c k kind r _ _).after
      ((chargeGood_kept c k _).after ((setSlot_kept k _ _).after heard))
  · exact (afterSequence_kept c k kind r _ _).after
      ((chargeBad_kept c k _).after ((setSlot_kept k _ _).after heard))

theorem badRecord_kept (k : SlotId) (w : Work) : w.lane.Kept (badRecord c k w).lane :=
  (setSlot_kept k _ _).after (chargeBad_kept c k w)

theorem evaluateChanged_kept (before after : Work) : after.lane.Kept (evaluateChanged c before after).lane := by
  unfold evaluateChanged
  split
  · exact .refl _
  · exact failover_kept c after

/-- R45: what an ingest record of a lane can come to: nothing, or a bad or a well-formed record of a pen slot. -/
theorem classify_cases {motive : Work → Prop} (x : Rec) (w : Work) (nothing : motive w)
    (bad : ∀ k, motive (evaluateChanged c w (badRecord c k w)))
    (good : ∀ k kind, w.lane.pens.slotOf (readIngest x).pen = some k →
      motive (evaluateChanged c w (wellFormedRecord c k kind (readIngest x) w).1)) :
    motive (classify c x w).1 := by
  unfold classify
  dsimp only
  split
  · split
    · exact bad _
    · exact nothing
  · split
    · split
      · rename_i found
        exact good _ _ found
      · exact nothing
    · split
      · exact bad _
      · exact nothing

theorem processIngest_kept (x : Rec) (w : Work) : w.lane.Kept (processIngest c x w).1.lane := by
  unfold processIngest
  split
  · exact .refl _
  · exact classify_cases (motive := fun v => w.lane.Kept v.lane) c x w (.refl _)
      (fun k => (evaluateChanged_kept c w _).after (badRecord_kept c k w))
      (fun k kind _ => (evaluateChanged_kept c w _).after (wellFormedRecord_kept c k kind _ w))

/-! ## PEN-SET and RESTORE -/

theorem penSetClear_kept (q : PenSetAsk) (w : Work) : w.lane.Kept (penSetClear q w).lane := by
  have cleared (keep : StandbyEntry → Bool) (on : Prop) [Decidable on] : w.lane.Kept
      (w.setPens { w.lane.pens with
        standby := if on then w.lane.pens.standby.filter keep else w.lane.pens.standby }).lane :=
    w.setPens_kept fun h => by
      split
      · exact (List.length_filter_le _ _).trans h
      · exact h
  unfold penSetClear
  dsimp only
  split
  · exact (setSlot_kept _ _ _).after ((Lane.aside_recent _ (recent_set fun _ => Nat.zero_le _)).toKept.after
      ((standbyDiscards_aside _ _).toKept.after (cleared _ _)))
  · exact (standbyDiscards_aside _ _).toKept.after (cleared _ _)

/-- R51 step 3: the slot filled, and the floor of a floor pen no longer vacant. -/
def penSetFill (q : PenSetAsk) (w : Work) : Work :=
  let v := (penSetClear q w).setSlot q.slot (penSetSlot c q ((penSetClear q w).slot q.slot))
  if (v.slot q.slot).role = .floor ∧ v.lane.pens.floor = .vacant
  then v.setPens { v.lane.pens with floor := .steady } else v

theorem acceptPenSet_eq (q : PenSetAsk) (w : Work) :
    acceptPenSet c q w = if ((penSetFill c q w).slot q.slot).health = (w.slot q.slot).health then penSetFill c q w
      else failover c (reportHealth c q.slot (w.slot q.slot).health .penSet (penSetFill c q w)) := rfl

theorem penSetFill_kept (q : PenSetAsk) (w : Work) : w.lane.Kept (penSetFill c q w).lane := by
  refine (penSetClear_kept q w).trans ((setSlot_kept q.slot (penSetSlot c q ((penSetClear q w).slot q.slot)) _).trans ?_)
  unfold penSetFill
  dsimp only
  split
  · exact Work.setPens_kept _ id
  · exact .refl _

theorem acceptPenSet_kept (q : PenSetAsk) (w : Work) : w.lane.Kept (acceptPenSet c q w).lane := by
  rw [acceptPenSet_eq]
  split
  · exact penSetFill_kept c q w
  · refine (failover_kept c _).after ?_
    rw [reportHealth_lane]
    exact penSetFill_kept c q w

theorem acceptRestore_kept (k : SlotId) (w : Work) : w.lane.Kept (acceptRestore c k w).lane := by
  unfold acceptRestore
  dsimp only
  split
  · exact setSlot_kept k _ w
  · refine (failover_kept c _).after ?_
    rw [reportHealth_lane]
    exact setSlot_kept k _ w

end Pens

/-! ## Override Control and LANE-SET -/

section Override
variable (x : Lane) (c : LaneCtx) (now : Field)

theorem afterSoftStart_sized : x.Sized x.afterSoftStart :=
  ⟨fun b => ⟨b.hold, by rw [Lane.afterSoftStart, List.length_map]; exact b.emission, b.standby, b.onsets, b.recent⟩, id⟩

/-- R159: the stale discards make the queues no longer. -/
theorem afterSoftEnd_sized : x.Sized (x.afterSoftEnd now) :=
  ⟨fun b => ⟨(List.length_filter_le _ _).trans b.hold, (List.length_filter_le _ _).trans b.emission, b.standby,
    b.onsets, b.recent⟩, id⟩

theorem afterHardStart_sized : x.Sized x.afterHardStart :=
  ⟨fun _ => ⟨Nat.zero_le _, Nat.zero_le _, Nat.zero_le _, Nat.zero_le _, by intro k; cases k <;> exact Nat.zero_le _⟩, id⟩

theorem afterHardEnd_sized : x.Sized x.afterHardEnd :=
  ⟨fun b => ⟨b.hold, b.emission, b.standby, b.onsets, b.recent⟩, id⟩

theorem afterHoldStart_sized : x.Sized x.afterHoldStart := by
  unfold Lane.afterHoldStart
  split
  · split
    · exact .refl x
    · exact afterSoftStart_sized x
    · exact afterHardStart_sized x
  · exact .refl x

theorem afterHoldEnd_sized : x.Sized (x.afterHoldEnd now) := by
  unfold Lane.afterHoldEnd
  split
  · exact .refl x
  · exact .refl x
  · exact afterSoftEnd_sized x now
  · exact afterHardEnd_sized x

theorem setLink_sized (mode : LinkMode) : x.Sized { x with link := mode } :=
  ⟨fun b => ⟨b.hold, b.emission, b.standby, b.onsets, b.recent⟩, id⟩

theorem afterLink_sized (mode : LinkMode) : x.Sized (x.afterLink mode now) := by
  refine (setLink_sized x mode).trans ?_
  unfold Lane.afterLink
  dsimp only
  split
  · exact .refl _
  · exact afterSoftStart_sized _
  · exact afterHardStart_sized _
  · exact afterSoftEnd_sized _ now
  · exact .refl _
  · exact afterHardStart_sized _
  · exact afterHardEnd_sized _
  · exact (afterHardEnd_sized _).trans (afterSoftStart_sized _)
  · exact .refl _

/-- R162: LINK changes the mode; with the override on it ends and starts the holds of a lane that is not OFF. -/
theorem acceptLink_lane (mode : LinkMode) (w : Work) : (acceptLink mode c w).lane =
    if w.lane.hold.state = .off || !c.overrideOn then { w.lane with link := mode }
    else w.lane.afterLink mode c.now := by
  unfold acceptLink Lane.afterLink
  dsimp only
  split
  · rfl
  · cases w.lane.link <;> cases mode <;>
      simp only [softHoldStart_lane, softHoldEnd_lane, hardHoldStart_lane, hardHoldEnd_lane]

theorem acceptLink_sized (mode : LinkMode) (w : Work) : w.lane.Sized (acceptLink mode c w).lane := by
  rw [acceptLink_lane]
  split
  · exact setLink_sized _ mode
  · exact afterLink_sized _ _ mode

theorem disableLane_sized (w : Work) : w.lane.Sized (disableLane c w).lane :=
  (flushLane_kept c w).toSized.trans ⟨fun b => ⟨b.hold, b.emission, b.standby, b.onsets, b.recent⟩, id⟩

/-- R72: the parameters change no queue but the emission queue, whose entries stay as many. -/
theorem setLaneParams_bounded (p : LaneParams) (w : Work) (h : w.lane.Bounded) : (setLaneParams p w).lane.Bounded where
  hold := h.hold
  emission := by
    have emptied : w.lane.composer.emptyRows.emission.length = w.lane.composer.emission.length := List.length_map _
    unfold setLaneParams setComposerParams
    dsimp only
    show List.length (Composer.emission (if _ then _ else _)) ≤ _
    split
    · exact h.emission
    · exact emptied ▸ h.emission
  standby := h.standby
  onsets := h.onsets
  recent := h.recent

/-- R81: an enabled lane begins with its initial latency; no capacity is touched. -/
theorem enableLane_bounded (w : Work) (h : w.lane.Bounded) : (enableLane c w).lane.Bounded := by
  have begun : ((w.setTracker { w.lane.tracker.beginAfresh with l := w.lane.tracker.initial }).setState
      .run).lane.Bounded := ⟨h.hold, h.emission, h.standby, h.onsets, h.recent⟩
  unfold enableLane
  dsimp only
  split
  · rw [holdStart_lane]
    exact (afterHoldStart_sized _).bounded begun
  · exact begun

theorem enableLane_timed (w : Work) (h : w.lane.tracker.initial ≤ w.lane.tracker.d) : (enableLane c w).lane.Timed := by
  have begun : ((w.setTracker { w.lane.tracker.beginAfresh with l := w.lane.tracker.initial }).setState
      .run).lane.Timed := h
  unfold enableLane
  dsimp only
  split
  · rw [holdStart_lane]
    exact (afterHoldStart_sized _).timed begun
  · exact begun

theorem acceptLaneSet_bounded (p : LaneParams) (w : Work) (h : w.lane.Bounded) : (acceptLaneSet p c w).lane.Bounded := by
  have set := setLaneParams_bounded p w h
  unfold acceptLaneSet
  dsimp only
  split
  · split
    · exact enableLane_bounded c _ set
    · exact set
  · exact (disableLane_sized c _).bounded set

/-- R72, R82: L is brought within the new D, and the initial latency of parameters in range lies within it. -/
theorem acceptLaneSet_timed (p : LaneParams) (ok : p.ok = true) (w : Work) : (acceptLaneSet p c w).lane.Timed := by
  have set : (setLaneParams p w).lane.Timed := Nat.min_le_right _ _
  have initial : p.initial ≤ p.d := by
    simp only [LaneParams.ok, inRange, Bool.and_eq_true, decide_eq_true_iff] at ok
    omega
  unfold acceptLaneSet
  dsimp only
  split
  · split
    · exact enableLane_timed c _ initial
    · exact set
  · exact (disableLane_sized c _).timed set

end Override

/-! ## The rule -/

/-- A property of lanes that depends on no more than the capacities, L and D is kept by every step, once it is by
LANE-SET. -/
theorem laneRule_of_sized {P : Lane → Prop} (reset : P .reset) (sized : ∀ {x y : Lane}, x.Sized y → P x → P y)
    (laneSet : ∀ p c w, p.ok = true → P w.lane → P (acceptLaneSet p c w).lane) : LaneRule P where
  reset := reset
  pens c w := sized (pensFieldStart_kept c w).toSized
  hold c w := sized (holdFieldStart_aside c w).toSized
  composer fr par c w := sized (composerFieldStart_aside c fr par w).toSized
  compose fr par c w := sized (takeCompose_aside c fr par w).toSized
  onset c w := sized (enterOnset_aside c w).toSized
  opening fr c w := sized (openActive_aside c fr w).toSized
  burst c data w := sized (burstEnd_followerOnly c data w).aside.toSized
  holdStart cause c w := sized (holdStart_lane cause c w ▸ afterHoldStart_sized _)
  holdEnd cause c w := sized (holdEnd_lane cause c w ▸ afterHoldEnd_sized _ _)
  ingest c x w := sized (processIngest_kept c x w).toSized
  laneSet := laneSet
  penSet c q w _ _ := sized (acceptPenSet_kept c q w).toSized
  cue c first count w := sized (acceptCue_aside c first count w).toSized
  uncue w := sized (acceptUncue_followerOnly w).aside.toSized
  link m c w := sized (acceptLink_sized c m w)
  flush c w := sized (flushLane_kept c w).toSized
  restore c k w _ := sized (acceptRestore_kept c k w).toSized
  lost x := sized (x.aside_count _).toSized

theorem laneRule_bounded : LaneRule Lane.Bounded :=
  laneRule_of_sized
    ⟨Nat.zero_le _, Nat.zero_le _, Nat.zero_le _, Nat.zero_le _, by intro k; cases k <;> exact Nat.zero_le _⟩
    (fun h => h.bounded) fun p c w _ => acceptLaneSet_bounded c p w

theorem laneRule_timed : LaneRule Lane.Timed :=
  laneRule_of_sized (Nat.le_refl _) (fun h => h.timed) fun p c w ok _ => acceptLaneSet_timed c p ok w

/-- Settles O57, from the rule of each bound. -/
theorem boundsAreInvariant : Obligations.BoundsAreInvariant := by
  unfold Obligations.BoundsAreInvariant
  exact ⟨fun _ _ h e => laneRule_bounded.step h e, fun _ _ h e => laneRule_timed.step h e, fun _ _ h e => stagingOk_step h e⟩

end Sys2Proof.Machine
end

section
/-!
O59. A lane is in accord with the override (`Lane.InAccord`) when it is OFF or in the state its link mode gives. The
work that is no business of Override Control keeps the lane state and the link mode; a change of the effective
override reaches every lane, whatever the order of the pieces of work of the event.
-/
namespace Sys2Proof.Machine

/-! ## One lane -/

/-- R157, for one lane and a value of the effective override. -/
def Lane.InAccord (on : Bool) (x : Lane) : Prop :=
  x.hold.state ≠ .off →
    x.hold.state =
      if on then (match x.link with | .none => .run | .soft => .softHeld | .hard => .hardHeld) else .run

theorem State.holdsOk_iff (s : State) : s.HoldsOk ↔ ∀ l, (s.lanes.get l).InAccord s.overrideOn := Iff.rfl

theorem inAccord_of_off {on : Bool} {x : Lane} (h : x.hold.state = .off) : x.InAccord on := fun k => absurd h k

theorem inAccord_false {x : Lane} (h : x.hold.state = .run) : x.InAccord false := fun _ => h

theorem Lane.InAccord.same {on : Bool} {x y : Lane} (h : x.InAccord on) (state : y.hold.state = x.hold.state)
    (link : y.link = x.link) : y.InAccord on := by
  unfold Lane.InAccord
  rw [state, link]
  exact h

theorem Lane.InAccord.kept {on : Bool} {x y : Lane} (h : x.InAccord on) (k : x.Kept y) : y.InAccord on :=
  h.same k.state k.link

/-- R156, R157: the start of the hold brings a lane in accord with either value in accord with an override that is on. -/
theorem Lane.InAccord.holdStart {b : Bool} {x : Lane} (h : x.InAccord b) : x.afterHoldStart.InAccord true := by
  unfold Lane.afterHoldStart
  split
  · rename_i run
    split
    · rename_i link
      intro _
      rw [if_pos rfl, link]
      exact run
    · rename_i link
      intro _
      show LaneState.softHeld = if true = true then (match x.link with | .none => _ | .soft => _ | .hard => _) else _
      rw [if_pos rfl, link]
    · rename_i link
      intro _
      show LaneState.hardHeld = if true = true then (match x.link with | .none => _ | .soft => _ | .hard => _) else _
      rw [if_pos rfl, link]
  · rename_i held
    cases b with
    | true => exact h
    | false => exact inAccord_of_off (by_contra fun on => held (h on))

/-- R156: after the end of holds no lane is held. -/
theorem inAccord_afterHoldEnd (x : Lane) (now : Field) : (x.afterHoldEnd now).InAccord false := by
  unfold Lane.afterHoldEnd
  split
  · rename_i off; exact inAccord_of_off off
  · rename_i run; exact inAccord_false run
  · exact inAccord_false rfl
  · exact inAccord_false rfl

/-- R162: LINK with the override on brings the lane to its new mode's state. -/
theorem Lane.InAccord.link {x : Lane} (h : x.InAccord true) (on : x.hold.state ≠ .off) (mode : LinkMode)
    (now : Field) : (x.afterLink mode now).InAccord true := by
  have state := h on
  rw [if_pos rfl] at state
  cases hl : x.link <;> cases mode <;> rw [hl] at state <;> intro _ <;>
    simp [Lane.afterLink, hl, state, Lane.afterSoftStart, Lane.afterSoftEnd, Lane.afterHardStart, Lane.afterHardEnd]

theorem acceptLink_inAccord {c : LaneCtx} (mode : LinkMode) {w : Work} (h : w.lane.InAccord c.overrideOn) :
    (acceptLink mode c w).lane.InAccord c.overrideOn := by
  rw [acceptLink_lane]
  split
  · rename_i free
    rw [Bool.or_eq_true, decide_eq_true_iff, Bool.not_eq_true'] at free
    rcases free with off | out
    · exact inAccord_of_off off
    · rw [out] at h ⊢
      exact h
  · rename_i held
    rw [Bool.or_eq_true, decide_eq_true_iff, Bool.not_eq_true', not_or, Bool.not_eq_false] at held
    rw [held.2] at h ⊢
    exact h.link held.1 mode _

/-- R88, R157: an enabled lane takes the hold of its link mode when the override is on. -/
theorem enableLane_inAccord (c : LaneCtx) (w : Work) : (enableLane c w).lane.InAccord c.overrideOn := by
  unfold enableLane
  dsimp only
  split
  · rename_i on
    rw [on, holdStart_lane]
    exact (inAccord_false rfl).holdStart
  · rename_i off
    rw [Bool.not_eq_true] at off
    rw [off]
    exact inAccord_false rfl

theorem acceptLaneSet_inAccord {c : LaneCtx} (p : LaneParams) {w : Work} (h : w.lane.InAccord c.overrideOn) :
    (acceptLaneSet p c w).lane.InAccord c.overrideOn := by
  unfold acceptLaneSet
  dsimp only
  split
  · split
    · exact enableLane_inAccord c _
    · exact h.same rfl rfl
  · exact inAccord_of_off rfl

/-! ## The part -/

theorem State.HoldsOk.lane {s : State} (h : s.HoldsOk) (l : LaneId) : (s.lanes.get l).InAccord s.overrideOn := h l

theorem State.HoldsOk.same {s t : State} (h : s.HoldsOk) (lanes : t.lanes = s.lanes)
    (on : t.overrideOn = s.overrideOn) : t.HoldsOk := by
  rw [State.holdsOk_iff, lanes, on]
  exact h

theorem State.HoldsOk.shared {s t : State} (h : s.HoldsOk) (k : SharedOnly s t) : t.HoldsOk :=
  h.same k.lanes (by unfold State.overrideOn; rw [k.timer, k.unit])

theorem State.HoldsOk.setPort {s : State} (h : s.HoldsOk) (p : Port) (u : PortUnit) : (s.setPort p u).HoldsOk :=
  h.same (by simp) (by simp [State.overrideOn])

theorem State.HoldsOk.setLane {s : State} (h : s.HoldsOk) (l : LaneId) {x : Lane} (hx : x.InAccord s.overrideOn) :
    (s.setLane l x).HoldsOk := by
  rw [State.holdsOk_iff]
  intro k
  rw [State.setLane_lanes, Quad.get_set]
  split
  · exact hx
  · exact h k

theorem State.HoldsOk.runLane {s : State} (h : s.HoldsOk) (l : LaneId) {f : LaneCtx → Work → Work}
    (hf : ∀ w, w.lane.InAccord s.overrideOn → (f (s.laneCtx l) w).lane.InAccord s.overrideOn) :
    (runLane l f s).HoldsOk :=
  (h.setLane l (hf { lane := s.lanes.get l, out := [] } (h.lane l))).same (by simp [laneWork])
    (by simp [State.overrideOn])

theorem State.HoldsOk.runKept {s : State} (h : s.HoldsOk) (l : LaneId) {f : LaneCtx → Work → Work}
    (hf : ∀ c (w : Work), w.lane.Kept (f c w).lane) : (Machine.runLane l f s).HoldsOk :=
  h.runLane l fun w hw => hw.kept (hf _ w)

/-- A part whose lanes are all OFF. -/
theorem holdsOk_of_off {s : State} (h : s.lanes = .all .reset) : s.HoldsOk := by
  rw [State.holdsOk_iff]
  intro l
  rw [h, Quad.get_all]
  exact inAccord_of_off rfl

/-! ## A change of the override (R156) -/

theorem changeOverride_lineWork (cause : HoldCause) (b a : Bool) (s : State) :
    LineWork s (changeOverride cause b a s) := by
  have lanes : ∀ (ls : List LaneId) (t : State), LineWork s t →
      LineWork s (ls.foldl (fun t l => takeOverride cause a l t) t) := by
    intro ls
    induction ls with
    | nil => exact fun _ ht => ht
    | cons l ls ih => exact fun t ht => ih _ (ht.trans (runLane_lineWork l _ t))
  unfold changeOverride
  split
  · exact .refl s
  · exact lanes _ _ (.of rfl rfl rfl rfl rfl)

theorem acceptOverride_overrideOn (on : Bool) (s : State) :
    (acceptOverride on s).overrideOn = (s.timer.ovr.taken || on) := by
  have frame := changeOverride_lineWork .directive s.overrideOn (s.timer.ovr.taken || on)
    { s with unit := { s.unit with softOverride := on } }
  unfold acceptOverride State.overrideOn at *
  rw [frame.timer, frame.unit]

theorem State.HoldsOk.acceptOverride {s : State} (h : s.HoldsOk) (on : Bool) : (acceptOverride on s).HoldsOk := by
  rw [State.holdsOk_iff, acceptOverride_overrideOn]
  intro l
  unfold Machine.acceptOverride
  by_cases change : s.overrideOn = (s.timer.ovr.taken || on)
  · unfold changeOverride
    rw [if_pos change, ← change]
    exact h l
  · rw [changeOverride_lane _ change]
    cases (s.timer.ovr.taken || on)
    · exact inAccord_afterHoldEnd _ _
    · exact (h.lane l).holdStart

/-! ## Line events -/

/-- A piece of work of a line event leaves each lane in accord with what it was in accord with; a change of the
override brings its own lane in accord with the new value. -/
theorem runTask_inAccord {s : State} {k : Task} {a b : Bool} {l : LaneId} (h : (s.lanes.get l).InAccord b)
    (new : ∀ m a', k = .override m a' → a' = a) :
    ((runTask s k).lanes.get l).InAccord a ∨ (k ≠ .override l a ∧ ((runTask s k).lanes.get l).InAccord b) := by
  have kept (m : LaneId) {f : LaneCtx → Work → Work} (hf : ∀ c (w : Work), w.lane.Kept (f c w).lane) :
      ((runLane m f s).lanes.get l).InAccord b := by
    rw [runLane_lanes, Quad.get_set]
    split
    · rename_i same
      exact (same ▸ h : (s.lanes.get m).InAccord b).kept (hf _ { lane := s.lanes.get m, out := [] })
    · exact h
  cases k with
  | reference old =>
    exact .inr ⟨nofun, by rw [show runTask s (.reference old) = handReport _ s from rfl, (handReport_shared _ s).lanes]; exact h⟩
  | tally p =>
    refine .inr ⟨nofun, ?_⟩
    show ((tallyFieldStart p s).lanes.get l).InAccord b
    unfold tallyFieldStart
    dsimp only
    split
    · rw [(handReport_shared _ _).lanes, State.setPort_lanes]; exact h
    · exact h
  | pens m => exact .inr ⟨nofun, kept m pensFieldStart_kept⟩
  | hold m => exact .inr ⟨nofun, kept m fun c w => (holdFieldStart_aside c w).toKept⟩
  | composer m p =>
    refine .inr ⟨nofun, ?_⟩
    show ((if s.composing m then _ else s).lanes.get l).InAccord b
    split
    · exact kept m fun c w => (composerFieldStart_aside c _ p w).toKept
    · exact h
  | compose m p =>
    refine .inr ⟨nofun, ?_⟩
    show ((if s.composing m then _ else s).lanes.get l).InAccord b
    split
    · exact kept m fun c w => (takeCompose_aside c _ p w).toKept
    · exact h
  | onset m => exact .inr ⟨nofun, kept m fun c w => (enterOnset_aside c w).toKept⟩
  | override m a' =>
    obtain rfl := new m a' rfl
    have lanes : (runTask s (.override m a')).lanes = s.lanes.set m
        (if a' then (s.lanes.get m).afterHoldStart else (s.lanes.get m).afterHoldEnd s.timer.f) :=
      takeOverride_lanes _ _ _ _
    rw [lanes, Quad.get_set]
    by_cases same : l = m
    · subst same
      rw [if_pos rfl]
      left
      cases a'
      · exact inAccord_afterHoldEnd _ _
      · exact h.holdStart
    · rw [if_neg same]
      exact .inr ⟨fun e => same (Task.override.inj e).1.symm, h⟩

/-- After all the pieces of work each lane whose change of the override is among them is in accord with the new value;
so is each that was before. -/
theorem foldl_runTask_inAccord {a b : Bool} {l : LaneId} (ks : List Task) (s : State)
    (new : ∀ k ∈ ks, ∀ m a', k = .override m a' → a' = a)
    (h : (s.lanes.get l).InAccord a ∨ (.override l a ∈ ks ∧ (s.lanes.get l).InAccord b)) :
    ((ks.foldl runTask s).lanes.get l).InAccord a := by
  induction ks generalizing s with
  | nil => exact h.resolve_right fun k => List.not_mem_nil k.1
  | cons k ks ih =>
    have here := new k List.mem_cons_self
    refine ih _ (fun k' hk' => new k' (List.mem_cons_of_mem k hk')) ?_
    rcases h with h | ⟨mem, h⟩
    · exact .inl ((runTask_inAccord h here).elim id And.right)
    · refine (runTask_inAccord h here).imp_right fun ⟨other, hb⟩ => ⟨?_, hb⟩
      exact (List.mem_cons.1 mem).resolve_left fun e => other e.symm

/-- The pieces of work of FIELD-START, COMPOSE and the onsets change no override. -/
def Task.isOverride : Task → Bool
  | .override _ _ => true
  | _ => false

theorem fieldStartTasks_noOverride (p : Parity) : ∀ k ∈ fieldStartTasks p, k.isOverride = false := by
  cases p <;> decide

theorem composeTasks_noOverride (p : Parity) : ∀ k ∈ composeTasks p, k.isOverride = false := by
  cases p <;> decide

theorem lineEffect_noOverride (e : LineEffect) : ∀ k ∈ e.tasks, k.isOverride = false := by
  cases e with
  | nothing => exact nofun
  | compose p => exact composeTasks_noOverride p
  | fieldStart p => exact fieldStartTasks_noOverride p

theorem referenceTasks_noOverride (old new : RefState) : ∀ k ∈ referenceTasks old new, k.isOverride = false := by
  unfold referenceTasks
  split
  · exact nofun
  · intro k hk
    rw [List.mem_singleton.1 hk]
    rfl

theorem onsetTasks_noOverride (t : Timing) (v : Levels) (x : FieldTimer) :
    ∀ k ∈ onsetTasks t v x, k.isOverride = false := by
  intro k hk
  obtain ⟨l, -, rfl⟩ := List.mem_map.1 hk
  rfl

/-- Each piece of work of a change of the override has the new value. -/
theorem overrideTasks_new {soft before after : Bool} {k : Task} (h : k ∈ overrideTasks soft before after) {m : LaneId}
    {a : Bool} (e : k = .override m a) : a = (after || soft) := by
  unfold overrideTasks at h
  split at h
  · cases h
  · obtain ⟨l, -, rfl⟩ := List.mem_map.1 h
    exact (Task.override.inj e).2.symm

theorem mem_overrideTasks {soft before after : Bool} (change : (before || soft) ≠ (after || soft)) (l : LaneId) :
    Task.override l (after || soft) ∈ overrideTasks soft before after := by
  unfold overrideTasks
  rw [if_neg change]
  exact List.mem_map.2 ⟨l, mem_allLanes l, rfl⟩

/-- R14, R156: a line event leaves the lanes in accord with the override that its sample of OVR gives. -/
theorem State.HoldsOk.lineEvent {s : State} (h : s.HoldsOk) (t : Timing) (v : Levels) (old : RefState)
    {x : FieldTimer} (ovr : x.ovr = s.timer.ovr) {work : List Task} (noOverride : ∀ k ∈ work, k.isOverride = false) :
    (lineEvent t v old x work s).HoldsOk := by
  have now : (Machine.lineEvent t v old x work s).overrideOn = ((x.sampled t v).ovr.taken || s.unit.softOverride) := by
    unfold State.overrideOn
    rw [lineEvent_timer]
    exact congrArg (_ || ·.softOverride) (runTasks_lineWork _ _).unit
  have before : s.overrideOn = (x.ovr.taken || s.unit.softOverride) := by rw [ovr]; rfl
  rw [State.holdsOk_iff, now]
  intro l
  unfold Machine.lineEvent runTasks
  dsimp only
  refine foldl_runTask_inAccord (b := s.overrideOn) _ _ (fun k hk m a' e => ?_) ?_
  · have hk := mem_permute.1 hk
    rw [List.mem_append, List.mem_append, List.mem_append] at hk
    have only (hf : k.isOverride = false) : a' = ((x.sampled t v).ovr.taken || s.unit.softOverride) := by
      rw [e] at hf; cases hf
    rcases hk with ((hk | hk) | hk) | hk
    · exact only (referenceTasks_noOverride _ _ k hk)
    · exact only (noOverride k hk)
    · exact only (onsetTasks_noOverride _ _ _ k hk)
    · exact overrideTasks_new hk e
  · by_cases change : s.overrideOn = ((x.sampled t v).ovr.taken || s.unit.softOverride)
    · rw [← change]; exact .inl (h l)
    · exact .inr ⟨mem_permute.2 (List.mem_append_right _ (mem_overrideTasks (before ▸ change) l)), h l⟩

theorem line_ovr (x : FieldTimer) (t : Timing) : (x.line t).1.ovr = x.ovr := by
  unfold FieldTimer.line
  split
  · rfl
  · split
    · split <;> rfl
    · rfl

theorem realFp_ovr (x : FieldTimer) (t : Timing) (fo : Bool) : (x.realFp t fo).ovr = x.ovr := rfl

theorem lpTaken_ovr (x : FieldTimer) : x.lpTaken.ovr = x.ovr := rfl

theorem lpLost_ovr (x : FieldTimer) : x.lpLost.ovr = x.ovr := rfl

theorem State.HoldsOk.lineOther {s : State} (h : s.HoldsOk) (t : Timing) (v : Levels) (old : RefState)
    {x : FieldTimer} (ovr : x.ovr = s.timer.ovr) : (Machine.lineOther t v old x s).HoldsOk :=
  h.lineEvent t v old ((line_ovr x t).trans ovr) (lineEffect_noOverride _)

/-! ## Records -/

theorem State.HoldsOk.laneDirective {s : State} (h : s.HoldsOk) (k : DirectiveKind) (ws : List Word) (l : LaneId) :
    (laneDirective k ws l s).state.HoldsOk := by
  unfold Machine.laneDirective
  cases k <;> dsimp only
  case laneSet =>
    split
    · exact h.runLane l fun w hw => acceptLaneSet_inAccord _ (c := s.laneCtx l) hw
    · exact h
  case penSet =>
    split
    · exact h
    · split
      · exact h
      · exact h.runKept l fun c w => acceptPenSet_kept c _ w
  case cue =>
    unfold directiveCue
    dsimp only
    split
    · exact h
    · split
      · exact h
      · split
        · exact h
        · exact h.runKept l fun c w => (acceptCue_aside c _ _ w).toKept
  case uncue => exact h.runKept l fun _ w => (acceptUncue_followerOnly w).aside.toKept
  case link =>
    split
    · exact h.runLane l fun w hw => acceptLink_inAccord _ (c := s.laneCtx l) hw
    · exact h
  case override => exact h.acceptOverride _
  case flush => exact h.runKept l flushLane_kept
  case restore =>
    split
    · exact h
    · exact h.runKept l (f := fun c w => acceptRestore c (directiveSlot ws) w) fun c w => acceptRestore_kept c _ w
  case snapshot => exact h.shared (handReport_shared _ _)
  case stop => exact h

theorem State.HoldsOk.carryOut {s : State} (h : s.HoldsOk) (k : DirectiveKind) (ws : List Word) :
    (carryOut k ws s).state.HoldsOk := by
  have lane : ∀ k, State.HoldsOk
      (match directiveLane ws s with
        | some l => Machine.laneDirective k ws l s
        | none => refuseWith 1 s).state := by
    intro k
    split
    · exact h.laneDirective k ws _
    · exact h
  cases k with
  | override => exact h.acceptOverride _
  | stop => exact h
  | laneSet => exact lane .laneSet
  | penSet => exact lane .penSet
  | cue => exact lane .cue
  | uncue => exact lane .uncue
  | link => exact lane .link
  | flush => exact lane .flush
  | restore => exact lane .restore
  | snapshot => exact lane .snapshot

theorem State.HoldsOk.processByBlock {s : State} (h : s.HoldsOk) (a : AsmId) (x : Rec) :
    (processByBlock a x s).state.HoldsOk := by
  cases a with
  | lane l =>
    have indexed : State.HoldsOk { s with freeIndex := s.freeIndex + 1 } := h
    exact (indexed.setLane l ((h.lane l).kept
      (processIngest_kept _ x { lane := s.lanes.get l, out := [] }))).shared (finishWork_shared l _ _)
  | command =>
    show (processDirective x s).state.HoldsOk
    unfold processDirective
    split
    · exact h
    · split
      · exact h
      · exact h.carryOut _ _

theorem State.HoldsOk.processRecord {s : State} (h : s.HoldsOk) (a : AsmId) (x : Rec) :
    (processRecord a x s).HoldsOk :=
  State.HoldsOk.shared (s := (Machine.processByBlock a x s).state.setAsm a _) (h.processByBlock a x)
    (enterRequest_shared _ _)

/-- R169: after STOP every lane is OFF. -/
theorem holdsOk_stop (s : State) : (stopTakesEffect s).HoldsOk :=
  holdsOk_of_off (handReport_shared _ _).lanes

theorem State.HoldsOk.reuse {s : State} (h : s.HoldsOk) (a : AsmId) (x : Handoff) : (reuseSlot a x s).HoldsOk :=
  State.HoldsOk.shared (s := withdrawRequest (.writeBack a) (s.setAsm a { s.asm.get a with handoff := none })) h
    (handReport_shared _ _)

theorem State.HoldsOk.lose {s : State} (h : s.HoldsOk) (a : AsmId) (x : Rec) : (loseRecord a x s).HoldsOk := by
  refine State.HoldsOk.shared (s := countLost a s) ?_ (handReport_shared _ _)
  cases a with
  | lane l => exact h.setLane l ((h.lane l).same rfl rfl)
  | command => exact h

theorem State.HoldsOk.startRest {s : State} (h : s.HoldsOk) (a : AsmId) (slot : Nat) (d : Word) :
    (startRest a slot d s).HoldsOk := by
  have staged : ∀ x, (s.setAsm a x).HoldsOk := fun _ => h
  unfold Machine.startRest
  dsimp only
  split
  · exact h
  · exact h
  · split
    · exact (staged _).lose a _
    · exact (staged _).processRecord a _

theorem State.HoldsOk.startRecord {s : State} (h : s.HoldsOk) (a : AsmId) (slot : Nat) (d : Word) :
    (startRecord a slot d s).HoldsOk := by
  unfold Machine.startRecord
  split
  · split
    · split
      · exact holdsOk_stop _
      · exact (h.reuse a _).startRest a slot d
    · exact h.startRest a slot d
  · exact h.startRest a slot d

theorem State.HoldsOk.copyWord {s : State} (h : s.HoldsOk) (a : AsmId) (o : Nat) (d : Word) :
    (copyWord a o d s).1.HoldsOk := by
  unfold Machine.copyWord
  split
  · exact h.startRecord a _ d
  · unfold laterWord
    split
    · split
      · split
        · have staged : ∀ x, (s.setAsm a x).HoldsOk := fun _ => h
          unfold completeRecord
          dsimp only
          split
          · exact h
          · exact (staged _).processRecord a _
        · exact h
      · exact h
    · exact h
    · exact h

theorem State.HoldsOk.writebackEnd {s : State} (h : s.HoldsOk) (a : AsmId) (m : MAccess) (ok : Bool) :
    (writebackEnd a m ok s).HoldsOk := by
  have emptied : ∀ x, (s.setAsm a x).HoldsOk := fun _ => h
  unfold Machine.writebackEnd
  dsimp only
  split
  · exact h
  · split
    · exact h
    · rename_i x _ _
      have reported : State.HoldsOk
          (if ok then s.setAsm a { s.asm.get a with handoff := none }
            else ringReport a x.record.slot .engineError [codeItem 1, .whole (BitVec.ofNat 32 m.addr.toNat)]
              (s.setAsm a { s.asm.get a with handoff := none })) := by
        split
        · exact h
        · exact (emptied _).shared (handReport_shared _ _)
      split
      · exact holdsOk_stop _
      · split
        · exact State.HoldsOk.processRecord (s := State.setAsm _ a _) reported a _
        · exact reported
        · exact reported

/-! ## Accesses -/

theorem State.HoldsOk.takeWrite {s : State} (h : s.HoldsOk) (p : Port) (a : Addr) (d : Word) :
    (takeWrite p a d s).1.HoldsOk := by
  unfold Machine.takeWrite
  split
  · exact h.setPort p _
  · unfold passWrite
    split
    · exact h
    · split
      · exact h
      · exact h
      · split
        · exact h.copyWord _ _ d
        · exact h.copyWord _ _ d
        · exact h
        · exact h
        · dsimp only
          split
          · unfold offerConsume
            split
            · exact h
            · exact h
          · exact h

theorem State.HoldsOk.takeWrites {s : State} (h : s.HoldsOk) (p : Port) (ds : List Word) (a : Addr) :
    (takeWrites p a ds s).1.HoldsOk := by
  induction ds generalizing a s with
  | nil => exact h
  | cons d ds ih => exact ih (h.takeWrite p a d) (a + 4)

theorem State.HoldsOk.takeRead {s : State} (h : s.HoldsOk) (p : Port) (a : Addr) : (takeRead p a s).1.HoldsOk := by
  unfold Machine.takeRead
  split
  · exact h
  · exact h
  · split
    · dsimp only
      split
      · exact h
      · unfold readLatch
        dsimp only
        split
        · exact h.runKept _ fun c w => (openActive_aside c _ w).toKept
        · exact h
    · exact h

theorem State.HoldsOk.takeReads {s : State} (h : s.HoldsOk) (p : Port) (n : Nat) (a : Addr) :
    (takeReads p n a s).1.HoldsOk := by
  induction n generalizing a s with
  | zero => exact h
  | succ n ih => exact ih (h.takeRead p a) (a + 4)

/-- R15: START keeps the level of OVR taken. -/
theorem load_ovr_taken (x : FieldTimer) (t : Timing) : (x.load t).ovr.taken = x.ovr.taken := by
  unfold FieldTimer.load
  dsimp only
  split <;> rfl

theorem State.HoldsOk.doStart {s : State} (h : s.HoldsOk) : (doStart s).HoldsOk := by
  have loaded : (loadSetup s).HoldsOk := h.same rfl (by
    unfold State.overrideOn loadSetup
    dsimp only
    rw [load_ovr_taken])
  unfold Machine.doStart
  split
  · exact h.shared (enterRequest_shared _ _)
  · exact (loaded.shared (enterRequest_shared _ _)).shared ((setReport_shared _ _).trans (enterRequest_shared _ _))

theorem State.HoldsOk.takeAccess {s : State} (h : s.HoldsOk) (p : Port) (x : Access) :
    (takeAccess p x s).1.HoldsOk := by
  have words : (match x.xfer with
      | .write data => Machine.takeWrites p x.addr data s
      | .read n => Machine.takeReads p n x.addr s).1.HoldsOk := by
    split
    · exact h.takeWrites p _ _
    · exact h.takeReads p _ _
  unfold Machine.takeAccess
  dsimp only
  split
  · exact words.doStart
  · exact words

theorem State.HoldsOk.grantPort {s : State} (h : s.HoldsOk) (p : Port) (x : Access) : (grantPort p x s).HoldsOk := by
  have granted := State.HoldsOk.takeAccess (s := (s.setPort p { s.portUnit p with state := .inFlight }).setPortM
    (some { owner := .port p, addr := x.addr, isWrite := writes x.xfer, words := [], orphan := false }))
    (h.setPort p _) p x
  exact granted.same rfl rfl

theorem State.HoldsOk.arbitrate {s : State} (h : s.HoldsOk) : (arbitrate s).HoldsOk := by
  have step := arbitrate_arbitrated s
  revert step
  generalize Machine.arbitrate s = t
  intro step
  cases step with
  | busy _ => exact h
  | quiet _ => exact h
  | port p x served _ _ => exact State.HoldsOk.grantPort (s := s.setServed served) h p x
  | engine q served _ _ _ => exact h

theorem State.HoldsOk.finish {s : State} (h : s.HoldsOk) : (finishStopping s).HoldsOk := by
  unfold finishStopping
  split
  · exact h
  · exact h

theorem State.HoldsOk.settle {s : State} (h : s.HoldsOk) : (settle s).HoldsOk := h.finish.arbitrate.finish

theorem State.HoldsOk.receive {s : State} (h : s.HoldsOk) (p : Port) (x : Access) : (receive p x s).HoldsOk := by
  unfold Machine.receive
  split
  · split
    · exact (h.setPort p _).settle
    · exact ((h.takeAccess p x).setPort p _).settle
  · exact h

theorem State.HoldsOk.engineEnd {s : State} (h : s.HoldsOk) (r : Requester) (m : MAccess) (e : Ending) :
    (engineEnd r m e s).HoldsOk := by
  cases r with
  | writeBack a => exact h.writebackEnd a m _
  | fetch l =>
    show State.HoldsOk (if m.orphan then s else _)
    split
    · exact h
    · exact h.runKept l fun c w => (burstEnd_followerOnly c _ w).aside.toKept
  | report =>
    show State.HoldsOk (if m.orphan then s else if e = .expired then writerFailed s else writerDone s)
    split
    · exact h
    · split
      · exact h.shared (writerFailed_shared s)
      · exact h.shared (writerDone_shared s)
  | setupResult => exact h

theorem State.HoldsOk.endAccess {s : State} (h : s.HoldsOk) (m : MAccess) (e : Ending) : (endAccess m e s).HoldsOk := by
  have freed : (s.setPortM none).HoldsOk := h
  unfold Machine.endAccess
  dsimp only
  split
  · exact (freed.setPort _ _).settle
  · exact ((freed.engineEnd _ m e).shared (promoteDeferred_shared _)).settle

theorem State.HoldsOk.answerIf {s : State} (h : s.HoldsOk) (p : Owner → Bool) (a : MemAnswer) :
    (answerIf p a s).HoldsOk := by
  unfold Machine.answerIf
  split
  · split
    · exact h.endAccess _ _
    · exact h
  · exact h

theorem State.HoldsOk.hostWrites {s : State} (h : s.HoldsOk) (a : AsmId) (slot : Nat) (ws : List Word) :
    (hostWrites a slot ws s).HoldsOk := by
  unfold Machine.hostWrites
  split
  · exact h.receive _ _
  · exact h

/-! ## Commands -/

theorem State.HoldsOk.effect {s : State} (h : s.HoldsOk) (i : Instr) : (effect i s).HoldsOk := by
  cases i <;> dsimp only [Machine.effect]
  case powerOnReset straps => exact holdsOk_of_off rfl
  case resetPin straps => exact holdsOk_of_off rfl
  case realFp fo v =>
    unfold takeFp
    split
    · exact (h.lineEvent _ v _ (realFp_ovr _ _ _) (fieldStartTasks_noOverride _)).settle
    · exact h
  case realLp v =>
    unfold takeLp
    split
    · exact (h.lineOther _ v _ (lpTaken_ovr _)).settle
    · exact h
  case synthesisedLine v =>
    unfold takeSynthesised
    split
    · split
      · exact (h.lineOther (x := s.timer) _ v _ rfl).settle
      · exact h
    · exact h
  case lpAbsence v =>
    unfold takeAbsence
    split
    · split
      · exact (h.lineOther _ v _ (lpLost_ovr _)).settle
      · exact h
    · exact h
  case upstreamAccess p x => exact h.receive p x
  case airWord0Read l n =>
    unfold readAir
    split
    · exact h.receive _ _
    · exact h
  case consumeIndexWrite x =>
    unfold writeConsume
    split
    · exact h.receive _ _
    · exact h
  case start rest => exact h.receive _ _
  case responseTimerExpiry =>
    unfold expire
    split
    · exact h.endAccess _ _
    · exact h
  case lateMemoryAnswer a => exact h
  all_goals first | exact h.hostWrites _ _ _ | exact h.answerIf _ _

/-- Settles O59: idling keeps the accord, and so does each command; the override changes with a line event, an
OVERRIDE directive and STOP alone. -/
theorem holdsAreInvariant : Obligations.HoldsAreInvariant := by
  intro s t h e
  obtain ⟨-, rfl⟩ | ⟨c, rest, -, -, rfl⟩ := step_next e
  · exact h
  · exact State.HoldsOk.effect (s := s.withPending rest) h c

end Sys2Proof.Machine
end

section
/-!
O58. The floor of a lane is posted (`Lane.Posted`) when all of `FloorOk` holds but that the floor pen may be BARRED, as
it is between a charge and the failover evaluation that follows it (R62). A failover evaluation of a posted lane leaves
`FloorOk`; the other pieces of the Pen Monitor's work keep the roles and the pens.
-/
namespace Sys2Proof.Machine

/-- `FloorOk` but for the standing of the floor pen. -/
structure Lane.Posted (x : Lane) : Prop where
  single : ∀ j k, (x.pens.slots.get j).role = .floor → (x.pens.slots.get k).role = .floor → j = k
  vacant : x.pens.floor = .vacant ↔ ∀ k, (x.pens.slots.get k).role ≠ .floor
  empty : ∀ k, (x.pens.slots.get k).role = .none ↔ (x.pens.slots.get k).pen = 0
  distinct : ∀ j k, j ≠ k → (x.pens.slots.get j).pen ≠ 0 → (x.pens.slots.get j).pen ≠ (x.pens.slots.get k).pen
  fault : ∀ k, (x.pens.slots.get k).fault ≤ 200
  shadow : ∀ e ∈ x.pens.standby, (x.pens.slots.get e.slot).role = .standby

/-- R58: the floor pen is not BARRED. -/
def Lane.Unbarred (x : Lane) : Prop :=
  ∀ k, (x.pens.slots.get k).role = .floor → (x.pens.slots.get k).health ≠ .barred

theorem forall_slot {P : SlotId → Prop} : (∀ k, P k) ↔ P .a ∧ P .b :=
  ⟨fun h => ⟨h .a, h .b⟩, fun ⟨a, b⟩ k => by cases k <;> assumption⟩

theorem floorOk_iff {x : Lane} : x.FloorOk ↔ x.Posted ∧ x.Unbarred := by
  constructor
  · intro h
    refine ⟨⟨?_, h.vacant.trans (forall_slot (P := fun k => (x.pens.slots.get k).role ≠ .floor)).symm, h.empty, ?_, h.fault, h.shadow⟩, h.barred⟩
    · intro j k hj hk
      cases j <;> cases k
      · rfl
      · exact absurd ⟨hj, hk⟩ h.single
      · exact absurd ⟨hk, hj⟩ h.single
      · rfl
    · intro j k other used
      cases j <;> cases k
      · exact absurd rfl other
      · exact h.distinct used
      · exact fun same => h.distinct (fun zero => used (same.trans zero)) same.symm
      · exact absurd rfl other
  · rintro ⟨p, u⟩
    exact ⟨fun ⟨ha, hb⟩ => SlotId.noConfusion (p.single .a .b ha hb), p.vacant.trans forall_slot, p.empty, u,
      p.distinct .a .b nofun, p.fault, p.shadow⟩

theorem Lane.FloorOk.posted {x : Lane} (h : x.FloorOk) : x.Posted := (floorOk_iff.1 h).1

/-- The slots with the roles, and the standby entries no more. -/
structure Lane.SameRoles (x y : Lane) : Prop where
  role : ∀ k, (y.pens.slots.get k).role = (x.pens.slots.get k).role
  pen : ∀ k, (y.pens.slots.get k).pen = (x.pens.slots.get k).pen
  floor : y.pens.floor = x.pens.floor
  standby : ∀ e ∈ y.pens.standby, e ∈ x.pens.standby

/-- And the fault counts: nothing the floor depends on is changed. -/
structure Lane.SameFloor (x y : Lane) : Prop extends x.SameRoles y where
  fault : ∀ k, (y.pens.slots.get k).fault = (x.pens.slots.get k).fault

/-- A charge of slot `k`: the fault count of no other slot is changed, and every one stays within 200. -/
structure Lane.Charged (k : SlotId) (x y : Lane) : Prop extends x.SameRoles y where
  others : ∀ j, j ≠ k → (y.pens.slots.get j).fault = (x.pens.slots.get j).fault
  fault : (∀ j, (x.pens.slots.get j).fault ≤ 200) → ∀ j, (y.pens.slots.get j).fault ≤ 200

section Relations
variable {x y z : Lane} {k : SlotId}

theorem Lane.SameRoles.refl (x : Lane) : x.SameRoles x := ⟨fun _ => rfl, fun _ => rfl, rfl, fun _ => id⟩

theorem Lane.SameRoles.trans (h : x.SameRoles y) (g : y.SameRoles z) : x.SameRoles z :=
  ⟨fun k => (g.role k).trans (h.role k), fun k => (g.pen k).trans (h.pen k), g.floor.trans h.floor,
    fun e he => h.standby e (g.standby e he)⟩

theorem Lane.SameFloor.refl (x : Lane) : x.SameFloor x := ⟨.refl x, fun _ => rfl⟩

theorem Lane.SameFloor.trans (h : x.SameFloor y) (g : y.SameFloor z) : x.SameFloor z :=
  ⟨h.toSameRoles.trans g.toSameRoles, fun k => (g.fault k).trans (h.fault k)⟩

theorem Lane.SameFloor.after (g : y.SameFloor z) (h : x.SameFloor y) : x.SameFloor z := h.trans g

theorem Lane.sameFloor_of_pens (h : y.pens = x.pens) : x.SameFloor y := by
  refine ⟨⟨?_, ?_, ?_, ?_⟩, ?_⟩ <;> rw [h]
  all_goals first | exact fun _ => rfl | exact fun _ => id

theorem Lane.Aside.sameFloor (h : x.Aside y) : x.SameFloor y := Lane.sameFloor_of_pens h.pens

theorem Lane.SameFloor.charged (h : x.SameFloor y) (k : SlotId) : x.Charged k y :=
  ⟨h.toSameRoles, fun j _ => h.fault j, fun b j => (h.fault j).trans_le (b j)⟩

theorem Lane.Charged.trans (h : x.Charged k y) (g : y.Charged k z) : x.Charged k z :=
  ⟨h.toSameRoles.trans g.toSameRoles, fun j hj => (g.others j hj).trans (h.others j hj), g.fault ∘ h.fault⟩

theorem Lane.Charged.after (g : y.Charged k z) (h : x.Charged k y) : x.Charged k z := h.trans g

theorem Lane.Posted.roles (h : x.Posted) (g : x.SameRoles y) (fault : ∀ j, (y.pens.slots.get j).fault ≤ 200) :
    y.Posted where
  single i j := by rw [g.role, g.role]; exact h.single i j
  vacant := by rw [g.floor, h.vacant]; simp only [g.role]
  empty j := by rw [g.role, g.pen]; exact h.empty j
  distinct i j := by rw [g.pen, g.pen]; exact h.distinct i j
  fault := fault
  shadow e he := (g.role e.slot).trans (h.shadow e (g.standby e he))

theorem Lane.Posted.charged (h : x.Posted) (g : x.Charged k y) : y.Posted :=
  h.roles g.toSameRoles (g.fault h.fault)

theorem Lane.Posted.same (h : x.Posted) (g : x.SameFloor y) : y.Posted := h.charged (g.charged .a)

theorem Lane.Unbarred.same (h : x.Unbarred) (g : x.SameFloor y) : y.Unbarred := by
  intro j hj
  unfold PenSlot.health
  rw [g.fault]
  exact h j ((g.role j).symm.trans hj)

theorem Lane.FloorOk.same (h : x.FloorOk) (g : x.SameFloor y) : y.FloorOk :=
  floorOk_iff.2 ⟨h.posted.same g, (floorOk_iff.1 h).2.same g⟩

/-- A standby list emptied. -/
theorem Lane.sameFloor_noStandby (slots : y.pens.slots = x.pens.slots) (floor : y.pens.floor = x.pens.floor)
    (standby : y.pens.standby = []) : x.SameFloor y :=
  ⟨⟨fun _ => by rw [slots], fun _ => by rw [slots], floor, fun e he => by rw [standby] at he; cases he⟩,
    fun _ => by rw [slots]⟩

end Relations

/-! ## Slots -/

section Pens
variable (c : LaneCtx)

theorem setSlot_get (w : Work) (k j : SlotId) (p : PenSlot) :
    (w.setSlot k p).lane.pens.slots.get j = if j = k then p else w.lane.pens.slots.get j := Pair.get_set _ k j p

theorem setSlot_sameRoles {w : Work} {k : SlotId} {p : PenSlot} (role : p.role = (w.slot k).role)
    (pen : p.pen = (w.slot k).pen) : w.lane.SameRoles (w.setSlot k p).lane := by
  refine ⟨fun j => ?_, fun j => ?_, rfl, fun _ => id⟩ <;> rw [setSlot_get] <;> split
  · rename_i same; rw [same]; exact role
  · rfl
  · rename_i same; rw [same]; exact pen
  · rfl

theorem setSlot_sameFloor {w : Work} {k : SlotId} {p : PenSlot} (role : p.role = (w.slot k).role)
    (pen : p.pen = (w.slot k).pen) (fault : p.fault = (w.slot k).fault) : w.lane.SameFloor (w.setSlot k p).lane := by
  refine ⟨setSlot_sameRoles role pen, fun j => ?_⟩
  rw [setSlot_get]
  split
  · rename_i same; rw [same]; exact fault
  · rfl

theorem setSlot_charged {w : Work} {k : SlotId} {p : PenSlot} (role : p.role = (w.slot k).role)
    (pen : p.pen = (w.slot k).pen) (fault : (w.slot k).fault ≤ 200 → p.fault ≤ 200) :
    w.lane.Charged k (w.setSlot k p).lane := by
  refine ⟨setSlot_sameRoles role pen, fun j other => ?_, fun bound j => ?_⟩ <;> rw [setSlot_get]
  · rw [if_neg other]
  · split
    · exact fault (bound k)
    · exact bound j

theorem setFault_charged (k : SlotId) {n : Nat} (h : n ≤ 200) (cause : HealthCause) (w : Work) :
    w.lane.Charged k (setFault c k n cause w).lane := by
  unfold setFault
  dsimp only
  rw [reportHealth_lane]
  exact setSlot_charged rfl rfl fun _ => h

/-- R54: a bad record never brings the count above 200. -/
theorem chargeBad_charged (k : SlotId) (w : Work) : w.lane.Charged k (chargeBad c k w).lane := by
  unfold chargeBad
  split
  · exact (Lane.SameFloor.refl _).charged k
  · exact setFault_charged c k (Nat.min_le_left _ _) _ w

theorem chargeGood_charged (k : SlotId) (w : Work) (h : (w.slot k).fault ≤ 200) :
    w.lane.Charged k (chargeGood c k w).lane := by
  unfold chargeGood
  split
  · exact (Lane.SameFloor.refl _).charged k
  · exact setFault_charged c k (by omega) _ w

theorem hear_sameFloor (k : SlotId) (w : Work) : w.lane.SameFloor (hear c k w).lane := setSlot_sameFloor rfl rfl rfl

/-- R54, R55: the keepalive run is no part of what the floor depends on. -/
theorem setKeepRun_charged (k : SlotId) (n : Nat) (w : Work) :
    w.lane.Charged k (w.setSlot k { w.slot k with keepRun := n }).lane :=
  (setSlot_sameFloor (p := { w.slot k with keepRun := n }) rfl rfl rfl).charged k

theorem badRecord_charged (k : SlotId) (w : Work) : w.lane.Charged k (badRecord c k w).lane :=
  (setKeepRun_charged k 0 _).after (chargeBad_charged c k w)

theorem barredEffect_charged (k : SlotId) (kind : IngestKind) (gap : Bool) (w : Work) :
    w.lane.Charged k (barredEffect c k kind gap w).1.lane := by
  unfold barredEffect
  dsimp only
  generalize (if gap then 0 else _ : Nat) = run
  split
  · exact (setFault_charged c k (Nat.zero_le _) _ _).after (setKeepRun_charged k 0 w)
  · exact setKeepRun_charged k run w

/-! ## The floor slot and its transfers -/

theorem floorSlot_role {p : Pens} {k : SlotId} (h : p.floorSlot = some k) : (p.slots.get k).role = .floor := by
  unfold Pens.floorSlot at h
  split at h
  · cases h; assumption
  · split at h
    · cases h; assumption
    · cases h

theorem floorSlot_role_none {p : Pens} (h : p.floorSlot = none) (k : SlotId) : (p.slots.get k).role ≠ .floor := by
  unfold Pens.floorSlot at h
  split at h
  · cases h
  · split at h
    · cases h
    · cases k <;> assumption

theorem handToAdmission_sameFloor (k : SlotId) (fromList : Bool) (t : Candidate) (w : Work) :
    w.lane.SameFloor (handToAdmission c k fromList t w).1.lane :=
  (admitCandidate_aside c k fromList t w).sameFloor.trans (setSlot_sameFloor rfl rfl rfl)

theorem resolveEntries_sameFloor (new : SlotId) (reference : Option Field) (es : List StandbyEntry) (w : Work) :
    w.lane.SameFloor (es.foldl (resolveEntry c new reference) w).lane := by
  induction es generalizing w with
  | nil => exact .refl _
  | cons e es ih =>
    refine Lane.SameFloor.trans ?_ (ih _)
    unfold resolveEntry
    split
    · exact handToAdmission_sameFloor c new true _ w
    · exact (standbyDiscards_aside 1 w).sameFloor

theorem resolveStandby_sameFloor (new : SlotId) (w : Work) :
    (w.setPens { w.lane.pens with standby := [] }).lane.SameFloor (resolveStandby c new w).lane :=
  resolveEntries_sameFloor c _ _ _ _

/-- What a transfer to `new` leaves of the floor: `new` alone has it, and the standby list is resolved. -/
structure Lane.HandedTo (new : SlotId) (x y : Lane) : Prop where
  holder : ∀ j, (y.pens.slots.get j).role = .floor ↔ j = new
  unused : ∀ j, j ≠ new → ((y.pens.slots.get j).role = .none ↔ (x.pens.slots.get j).role = .none)
  pen : ∀ j, (y.pens.slots.get j).pen = (x.pens.slots.get j).pen
  fault : ∀ j, (y.pens.slots.get j).fault = (x.pens.slots.get j).fault
  steady : y.pens.floor = .steady
  standby : y.pens.standby = []

theorem Lane.HandedTo.floorOk {new : SlotId} {x y : Lane} (h : x.HandedTo new y) (posted : x.Posted)
    (able : (x.pens.slots.get new).eligible = true) : y.FloorOk := by
  obtain ⟨⟨used, health⟩, -⟩ : ((x.pens.slots.get new).pen ≠ 0 ∧
      ((x.pens.slots.get new).health = .good ∨ (x.pens.slots.get new).health = .warn)) ∧ _ := by
    simpa [PenSlot.eligible, PenSlot.isEmpty] using able
  refine floorOk_iff.2 ⟨⟨?_, ?_, ?_, ?_, ?_, ?_⟩, ?_⟩
  · intro j k hj hk
    exact ((h.holder j).1 hj).trans ((h.holder k).1 hk).symm
  · rw [h.steady]
    exact ⟨nofun, fun none => absurd ((h.holder new).2 rfl) (none new)⟩
  · intro k
    rw [h.pen]
    by_cases at_new : k = new
    · rw [at_new, (h.holder new).2 rfl]
      exact ⟨nofun, fun zero => absurd zero used⟩
    · rw [h.unused k at_new]
      exact posted.empty k
  · intro j k
    rw [h.pen, h.pen]
    exact posted.distinct j k
  · intro k
    rw [h.fault]
    exact posted.fault k
  · rw [h.standby]
    exact nofun
  · intro k hk
    unfold PenSlot.health
    rw [(h.holder k).1 hk, h.fault]
    rcases health with g | g
    · exact fun b => Health.noConfusion (b.symm.trans g)
    · exact fun b => Health.noConfusion (b.symm.trans g)

/-- R64 steps 1 and 2: the roles of a transfer to `new`. -/
def transferRoles (new : SlotId) (w : Work) : Work :=
  (match w.lane.pens.floorSlot with | some k => w.setRole k .standby | none => w).setRole new .floor

theorem transferRoles_get (new : SlotId) (w : Work) (j : SlotId) :
    ((transferRoles new w).slot j).pen = (w.slot j).pen ∧ ((transferRoles new w).slot j).fault = (w.slot j).fault ∧
      ((transferRoles new w).slot j).role =
        if j = new then .floor else if w.lane.pens.floorSlot = some j then .standby else (w.slot j).role := by
  unfold transferRoles
  cases w.lane.pens.floorSlot with
  | none => cases j <;> cases new <;> exact ⟨rfl, rfl, rfl⟩
  | some k => cases j <;> cases new <;> cases k <;> exact ⟨rfl, rfl, rfl⟩

theorem transfer_handedTo (new : SlotId) (cause : FloorCause) {w : Work} (posted : w.lane.Posted) :
    w.lane.HandedTo new (transfer c new cause w).lane := by
  have resolved := resolveStandby_sameFloor c new (transferRoles new w)
  have none_left : (resolveStandby c new (transferRoles new w)).lane.pens.standby = [] :=
    List.eq_nil_iff_forall_not_mem.2 fun e he => nomatch resolved.standby e he
  have role (j : SlotId) : ((transfer c new cause w).lane.pens.slots.get j).role =
      if j = new then .floor else if w.lane.pens.floorSlot = some j then .standby else (w.slot j).role :=
    (resolved.role j).trans (transferRoles_get new w j).2.2
  refine ⟨fun j => ?_, fun j other => ?_, fun j => (resolved.pen j).trans (transferRoles_get new w j).1,
    fun j => (resolved.fault j).trans (transferRoles_get new w j).2.1, rfl, none_left⟩
  · rw [role]
    split
    · rename_i at_new; exact ⟨fun _ => at_new, fun _ => rfl⟩
    · rename_i other
      refine ⟨fun h => ?_, fun h => absurd h other⟩
      split at h
      · cases h
      · rename_i not_old
        cases old : w.lane.pens.floorSlot with
        | none => exact absurd h (floorSlot_role_none old j)
        | some k => exact absurd (old.trans (congrArg _ (posted.single k j (floorSlot_role old) h))) not_old
  · rw [role, if_neg other]
    split
    · rename_i old
      exact ⟨nofun, fun h => Role.noConfusion (h.symm.trans (floorSlot_role old))⟩
    · rfl

theorem transfer_floorOk {new : SlotId} (cause : FloorCause) {w : Work} (posted : w.lane.Posted)
    (able : (w.slot new).eligible = true) : (transfer c new cause w).lane.FloorOk :=
  (transfer_handedTo c new cause posted).floorOk posted able

/-- R63: after a vacation nobody has the floor. -/
theorem vacate_floorOk {k : SlotId} {w : Work} (posted : w.lane.Posted) (holder : (w.slot k).role = .floor) :
    (vacate c k w).lane.FloorOk := by
  have get (j : SlotId) : (vacate c k w).lane.pens.slots.get j =
      if j = k then { w.slot k with role := .standby } else w.slot j := setSlot_get w k j _
  have role (j : SlotId) : ((vacate c k w).lane.pens.slots.get j).role = if j = k then .standby else (w.slot j).role := by
    rw [get]; split <;> rfl
  have pen (j : SlotId) : ((vacate c k w).lane.pens.slots.get j).pen = (w.slot j).pen := by
    rw [get]; split <;> [(rename_i same; rw [same]); rfl]
  have fault (j : SlotId) : ((vacate c k w).lane.pens.slots.get j).fault = (w.slot j).fault := by
    rw [get]; split <;> [(rename_i same; rw [same]); rfl]
  have nobody (j : SlotId) : ((vacate c k w).lane.pens.slots.get j).role ≠ .floor := by
    rw [role]
    split
    · exact nofun
    · rename_i other
      exact fun h => other (posted.single j k h holder)
  refine floorOk_iff.2 ⟨⟨fun j _ h => absurd h (nobody j), ⟨fun _ => nobody, fun _ => rfl⟩, fun j => ?_, fun i j => ?_,
    fun j => ?_, fun e he => ?_⟩, fun j h => absurd h (nobody j)⟩
  · rw [pen, role]
    split
    · rename_i same
      rw [same]
      exact ⟨nofun, fun zero => Role.noConfusion (((posted.empty k).2 zero).symm.trans holder)⟩
    · exact posted.empty j
  · rw [pen, pen]; exact posted.distinct i j
  · rw [fault]; exact posted.fault j
  · rw [role]
    split
    · rfl
    · exact posted.shadow e he

/-- R62: the failover evaluation takes the floor from a BARRED pen. -/
theorem failover_floorOk {w : Work} (posted : w.lane.Posted) (off : w.lane.hold.state = .off → w.lane.Unbarred) :
    (failover c w).lane.FloorOk := by
  have same (k : SlotId) (holder : w.lane.pens.floorSlot = some k) (sound : (w.slot k).health ≠ .barred) :
      w.lane.FloorOk := floorOk_iff.2 ⟨posted, fun j hj => posted.single k j (floorSlot_role holder) hj ▸ sound⟩
  unfold failover
  split
  · rename_i is_off
    exact floorOk_iff.2 ⟨posted, off is_off⟩
  · split
    · rename_i nobody
      exact floorOk_iff.2 ⟨posted, fun k hk => absurd hk (floorSlot_role_none nobody k)⟩
    · rename_i k holder
      dsimp only
      split
      · split
        · rename_i able
          exact transfer_floorOk c _ posted able
        · exact vacate_floorOk c posted (floorSlot_role holder)
      · rename_i sound
        split
        · rename_i able
          rw [Bool.and_eq_true] at able
          exact transfer_floorOk c _ posted able.2
        · exact same k holder sound

/-! ## FIELD-START -/

theorem setPens_sameFloor {w : Work} {p : Pens} (slots : p.slots = w.lane.pens.slots) (floor : p.floor = w.lane.pens.floor)
    (standby : ∀ e ∈ p.standby, e ∈ w.lane.pens.standby) : w.lane.SameFloor (w.setPens p).lane :=
  ⟨⟨fun k => congrArg (fun q => (q.get k).role) slots, fun k => congrArg (fun q => (q.get k).pen) slots, floor, standby⟩,
    fun k => congrArg (fun q => (q.get k).fault) slots⟩

theorem pruneStandby_sameFloor (w : Work) : w.lane.SameFloor (pruneStandby c w).lane :=
  (standbyDiscards_aside _ _).sameFloor.after
    (setPens_sameFloor (w := w) (p := { w.lane.pens with standby := w.lane.pens.standby.filter _ }) rfl rfl
      fun _ he => List.mem_of_mem_filter he)

theorem markSilent_same (p : PenSlot) (now : Field) (q : Nat) :
    (p.markSilent now q).role = p.role ∧ (p.markSilent now q).pen = p.pen ∧ (p.markSilent now q).fault = p.fault := by
  unfold PenSlot.markSilent
  split <;> exact ⟨rfl, rfl, rfl⟩

theorem markSilence_sameFloor (w : Work) : w.lane.SameFloor (markSilence c w).lane := by
  have slot (k : SlotId) : (markSilence c w).slot k = (w.slot k).markSilent c.now w.lane.pens.q := by cases k <;> rfl
  refine ⟨⟨fun k => ?_, fun k => ?_, rfl, fun _ => id⟩, fun k => ?_⟩
  · exact (congrArg _ (slot k)).trans (markSilent_same _ _ _).1
  · exact (congrArg _ (slot k)).trans (markSilent_same _ _ _).2.1
  · exact (congrArg _ (slot k)).trans (markSilent_same _ _ _).2.2

/-- R59, R61: a floor that has a pen goes from one state to another that is not VACANT. -/
theorem setFloor_floorOk {w : Work} {f : FloorState} (h : w.lane.FloorOk) (old : w.lane.pens.floor ≠ .vacant)
    (new : f ≠ .vacant) : (w.setPens { w.lane.pens with floor := f }).lane.FloorOk :=
  ⟨h.single, ⟨fun v => absurd v new, fun nobody => absurd (h.vacant.2 nobody) old⟩, h.empty, h.barred, h.distinct,
    h.fault, h.shadow⟩

theorem lapseHandover_floorOk {w : Work} (h : w.lane.FloorOk) : (lapseHandover c w).lane.FloorOk := by
  unfold lapseHandover
  split
  · rename_i deadline standing
    split
    · exact setFloor_floorOk h (by rw [standing]; exact nofun) nofun
    · exact h
  · exact h
  · exact h

theorem Lane.FloorOk.failover {w : Work} (h : w.lane.FloorOk) : (failover c w).lane.FloorOk :=
  failover_floorOk c h.posted fun _ => (floorOk_iff.1 h).2

theorem pensFieldStart_floorOk (w : Work) (h : w.lane.FloorOk) : (pensFieldStart c w).lane.FloorOk :=
  (lapseHandover_floorOk c ((h.same (pruneStandby_sameFloor c w)).same (markSilence_sameFloor c _))).failover c

/-! ## Effects of records -/

/-- R67: the standby list with room for one more entry. -/
def standbyRoom (w : Work) : Work :=
  if w.lane.pens.standby.length < Config.standbyCap then w
  else (w.setPens { w.lane.pens with standby := w.lane.pens.standby.tail }).standbyDiscards 1

/-- R67, R90: the entry of a listed token, with the tag given. -/
def listedEntry (k : SlotId) (r : IngestRecord) (w : Work) : StandbyEntry :=
  { tag := (giveTag (standbyRoom w)).2, slot := k, arrival := r.arrival, newline := r.newline, speaker := r.speaker,
    text := r.text }

theorem listToken_pens (k : SlotId) (r : IngestRecord) (w : Work) : (listToken k r w).lane.pens =
    { (standbyRoom w).lane.pens with
      standby := (standbyRoom w).lane.pens.standby ++ [listedEntry k r w] } := rfl

theorem standbyRoom_sameFloor (w : Work) : w.lane.SameFloor (standbyRoom w).lane := by
  unfold standbyRoom
  split
  · exact .refl _
  · exact (standbyDiscards_aside 1 _).sameFloor.after
      (setPens_sameFloor (w := w) (p := { w.lane.pens with standby := w.lane.pens.standby.tail }) rfl rfl
        fun _ he => List.mem_of_mem_tail he)

/-- R67: a listed token is of a STANDBY slot. -/
theorem listToken_floorOk {k : SlotId} {w : Work} (r : IngestRecord) (h : w.lane.FloorOk)
    (standby : (w.slot k).role = .standby) : (listToken k r w).lane.FloorOk := by
  have room := standbyRoom_sameFloor w
  have ok := h.same room
  refine ⟨?_, ?_, ?_, ?_, ?_, ?_, ?_⟩ <;> rw [listToken_pens]
  · exact ok.single
  · exact ok.vacant
  · exact ok.empty
  · exact ok.barred
  · exact ok.distinct
  · exact ok.fault
  · intro e he
    rcases List.mem_append.1 he with old | new
    · exact ok.shadow e old
    · rw [List.mem_singleton.1 new]
      exact (room.role k).trans standby

theorem admitToken_sameFloor (k : SlotId) (r : IngestRecord) (w : Work) :
    w.lane.SameFloor (admitToken c k r w).1.lane :=
  (handToAdmission_sameFloor c k _ _ _).after (giveTag_aside w).sameFloor

theorem tokenEffect_floorOk {k : SlotId} {w : Work} (r : IngestRecord) (h : w.lane.FloorOk)
    (used : (w.slot k).role ≠ .none) : (tokenEffect c k r w).1.lane.FloorOk := by
  unfold tokenEffect
  split
  · exact h.same (admitToken_sameFloor c k r w)
  · rename_i not_floor
    have standby : (w.slot k).role = .standby := by
      cases role : (w.slot k).role with
      | none => exact absurd role used
      | standby => rfl
      | floor => exact absurd role not_floor
    split
    · split
      · rename_i able
        exact (transfer_floorOk c _ h.posted able).same (admitToken_sameFloor c k r _)
      · exact h
    · exact listToken_floorOk r h standby
    · exact listToken_floorOk r h standby

theorem standbyCorrect_sameFloor (k : SlotId) (n : Nat) (w : Work) :
    w.lane.SameFloor (standbyCorrect k n w).1.lane :=
  (standbyDiscards_aside _ _).sameFloor.after
    (setPens_sameFloor (w := w)
      (p := { w.lane.pens with standby := (dropNewest k n w.lane.pens.standby.reverse).reverse }) rfl rfl
      fun _ he => (dropNewest_kept_sublist k n _).subset he)

theorem offerEffect_floorOk {k : SlotId} {w w' : Work} (h : w.lane.FloorOk) (e : offerEffect c k w = some w') :
    w'.lane.FloorOk := by
  unfold offerEffect at e
  dsimp only at e
  split at e
  · split at e
    · cases e
    · rename_i steady
      cases e
      exact setFloor_floorOk h (by rw [steady]; exact nofun) nofun
    · rename_i deadline standing
      cases e
      exact setFloor_floorOk h (by rw [standing]; exact nofun) nofun
  · cases e

/-- R52 step 5: the effect of a record of a used slot. -/
theorem recordEffect_floorOk {k : SlotId} {w : Work} (kind : IngestKind) (r : IngestRecord) (gap : Bool)
    (h : w.lane.FloorOk) (used : (w.slot k).role ≠ .none) : (recordEffect c k kind r gap w).1.lane.FloorOk := by
  unfold recordEffect
  cases kind <;> dsimp only
  case token =>
    split
    · exact h.same (w.count_aside _).sameFloor
    · exact tokenEffect_floorOk c r h used
  case correct =>
    split
    · exact h.same (correctUnit_aside c k _ w).sameFloor
    · exact h.same (standbyCorrect_sameFloor k _ w)
  case offer =>
    split
    · rename_i taken
      exact offerEffect_floorOk c h taken
    · exact h
  case take =>
    split
    · rename_i taken
      obtain ⟨able, -, rfl⟩ := takeEffect_transfer c taken
      exact transfer_floorOk c _ h.posted able
    · exact h
  case keepalive => exact h

/-! ## Records (R52) -/

/-- Before the failover evaluation of a record: the floor is posted, and a BARRED floor pen has just become so. -/
structure Judged (before after : Work) : Prop where
  posted : after.lane.Posted
  fresh : ∀ k, (after.slot k).role = .floor → (after.slot k).health = .barred → (before.slot k).health ≠ .barred

theorem Judged.of_floorOk {before after : Work} (h : after.lane.FloorOk) : Judged before after :=
  ⟨h.posted, fun k role barred => absurd barred (h.barred k role)⟩

theorem Judged.of_charged {before after : Work} {k : SlotId} (h : before.lane.FloorOk)
    (g : before.lane.Charged k after.lane) : Judged before after :=
  ⟨h.posted.charged g, fun j role _ => h.barred j ((g.role j).symm.trans role)⟩

/-- R52 step 6: the evaluation, made when a health has changed, leaves the floor as it must be. -/
theorem Judged.evaluate {before after : Work} (h : Judged before after) (on : after.lane.hold.state ≠ .off) :
    (evaluateChanged c before after).lane.FloorOk := by
  unfold evaluateChanged
  split
  · rename_i same
    have health : ∀ k, (after.slot k).health = (before.slot k).health := forall_slot.2 same
    exact floorOk_iff.2 ⟨h.posted, fun k role barred => h.fresh k role barred ((health k).symm.trans barred)⟩
  · exact failover_floorOk c h.posted fun off => absurd off on

/-- R52 steps 4 and 5. -/
theorem afterSequence_judged {k : SlotId} {w v : Work} (kind : IngestKind) (r : IngestRecord) (gap : Bool)
    (h : w.lane.FloorOk) (g : w.lane.Charged k v.lane) (used : (w.slot k).role ≠ .none) :
    Judged w (afterSequence c k kind r gap v).1 := by
  unfold afterSequence
  split
  · exact .of_charged h (g.trans (barredEffect_charged c k kind gap v))
  · rename_i sound
    refine .of_floorOk (recordEffect_floorOk c kind r gap (floorOk_iff.2 ⟨h.posted.charged g, fun j role => ?_⟩) ?_)
    · by_cases same : j = k
      · rw [same]; exact sound
      · unfold PenSlot.health
        rw [g.others j same]
        exact h.barred j ((g.role j).symm.trans role)
    · exact fun none => used ((g.role k).symm.trans none)

theorem wellFormedRecord_judged {k : SlotId} {w : Work} (kind : IngestKind) (r : IngestRecord) (h : w.lane.FloorOk)
    (used : (w.slot k).role ≠ .none) : Judged w (wellFormedRecord c k kind r w).1 := by
  have heard := hear_sameFloor c k w
  have based : w.lane.SameFloor ((hear c k w).setSlot k { (hear c k w).slot k with base := some r.seq }).lane :=
    heard.trans (setSlot_sameFloor (p := { (hear c k w).slot k with base := some r.seq }) rfl rfl rfl)
  unfold wellFormedRecord
  dsimp only
  split
  · exact .of_floorOk (h.same heard)
  · exact afterSequence_judged c kind r _ h
      ((based.charged k).trans (chargeGood_charged c k _ ((based.fault k).trans_le (h.fault k)))) used
  · exact afterSequence_judged c kind r _ h ((based.charged k).trans (chargeBad_charged c k _)) used

/-- R50: a slot found by its pen is used. -/
theorem slotOf_pen {p : Pens} {pen : Half} {k : SlotId} (h : p.slotOf pen = some k) :
    (p.slots.get k).pen = pen ∧ pen ≠ 0 := by
  unfold Pens.slotOf at h
  split at h
  · cases h
  · rename_i used
    split at h
    · cases h; exact ⟨by assumption, used⟩
    · split at h
      · cases h; exact ⟨by assumption, used⟩
      · cases h

theorem processIngest_floorOk (x : Rec) (w : Work) (h : w.lane.FloorOk) : (processIngest c x w).1.lane.FloorOk := by
  unfold processIngest
  split
  · exact h
  · rename_i on
    refine classify_cases (motive := fun v => v.lane.FloorOk) c x w h (fun k => ?_) fun k kind found => ?_
    · exact (Judged.of_charged h (badRecord_charged c k w)).evaluate c ((badRecord_kept c k w).state.trans_ne on)
    · have used : (w.slot k).role ≠ .none := by
        obtain ⟨pen, nonzero⟩ := slotOf_pen found
        exact fun none => nonzero (pen.symm.trans ((h.empty k).1 none))
      exact (wellFormedRecord_judged c kind _ h used).evaluate c
        ((wellFormedRecord_kept c k kind _ w).state.trans_ne on)

/-! ## PEN-SET and RESTORE (R51, R56) -/

/-- R51: after a RESTORE the slot has no faults. -/
theorem acceptRestore_floorOk (k : SlotId) (w : Work) (h : w.lane.FloorOk) : (acceptRestore c k w).lane.FloorOk := by
  have cleared : (w.setSlot k { w.slot k with fault := 0, keepRun := 0 }).lane.FloorOk := by
    have same := setSlot_charged (w := w) (k := k) (p := { w.slot k with fault := 0, keepRun := 0 }) rfl rfl
      fun _ => Nat.zero_le _
    refine floorOk_iff.2 ⟨h.posted.charged same, fun j role => ?_⟩
    by_cases at_k : j = k
    · rw [setSlot_get, if_pos at_k]; exact Health.noConfusion
    · rw [setSlot_get, if_neg at_k] at role ⊢; exact h.barred j role
  unfold acceptRestore
  dsimp only
  split
  · exact cleared
  · refine Lane.FloorOk.failover c ?_
    rw [reportHealth_lane]
    exact cleared

/-- R51: when a PEN-SET is neither BUSY nor refused for its pen id. -/
theorem penSet_allowed {p : Pens} {q : PenSetAsk} (free : penSetBusy p q = false) (new : penSetTaken p q = false) :
    ((p.slots.get q.slot).role = .floor → q.pen = (p.slots.get q.slot).pen ∧ (q.pen ≠ 0 → q.floor = true)) ∧
      (q.pen ≠ 0 → q.floor = true → (p.slots.get (otherSlot q.slot)).role ≠ .floor) ∧
      (q.pen ≠ 0 → (p.slots.get (otherSlot q.slot)).pen ≠ q.pen) := by
  unfold penSetBusy at free
  unfold penSetTaken at new
  simp only [Bool.or_eq_false_iff, Bool.and_eq_false_iff, beq_eq_false_iff_ne, bne_eq_false_iff_eq,
    Bool.not_eq_false'] at free new
  obtain ⟨⟨same, kept⟩, other⟩ := free
  refine ⟨fun floor => ⟨same.resolve_left (· floor), fun used => ?_⟩, fun used on => ?_, fun used => ?_⟩
  · exact kept.resolve_left (fun h => h.elim (· floor) used)
  · exact other.resolve_left fun h => h.elim used (Bool.noConfusion <| on.symm.trans ·)
  · exact new.resolve_left used

/-- R51 step 1: the standby list without the entries of a slot whose STANDBY pen or role changes. -/
def penSetStandby (q : PenSetAsk) (w : Work) : List StandbyEntry :=
  if (w.slot q.slot).role = .standby && (q.pen != (w.slot q.slot).pen || (q.pen != 0 && q.floor))
  then w.lane.pens.standby.filter fun e => e.slot != q.slot else w.lane.pens.standby

theorem penSetClear_standby (q : PenSetAsk) (w : Work) : (penSetClear q w).lane.pens.standby = penSetStandby q w := by
  unfold penSetClear penSetStandby
  dsimp only
  split <;> rfl

/-- R51 steps 1 and 2: what the old pen of the slot leaves behind is no part of what the floor depends on. -/
theorem penSetClear_sameFloor (q : PenSetAsk) (w : Work) : w.lane.SameFloor (penSetClear q w).lane := by
  have fewer : ∀ e ∈ penSetStandby q w, e ∈ w.lane.pens.standby := by
    unfold penSetStandby
    split
    · exact fun _ he => List.mem_of_mem_filter he
    · exact fun _ => id
  have kept : w.lane.SameFloor (w.setPens { w.lane.pens with standby := penSetStandby q w }).lane :=
    setPens_sameFloor rfl rfl fewer
  unfold penSetClear
  dsimp only
  split
  · exact (kept.trans (setSlot_sameFloor (k := q.slot) (p := { w.slot q.slot with lastAdmitted := none })
      rfl rfl rfl)).trans (Lane.sameFloor_of_pens rfl)
  · exact kept.trans (Lane.sameFloor_of_pens rfl)

theorem penSetSlot_fields (q : PenSetAsk) (old : PenSlot) :
    (penSetSlot c q old).role = (if q.pen = 0 then .none else if q.floor then .floor else .standby) ∧
      (penSetSlot c q old).pen = q.pen ∧ (penSetSlot c q old).fault = 0 := by
  unfold penSetSlot
  split
  · rename_i zero
    exact ⟨rfl, zero.symm, rfl⟩
  · exact ⟨rfl, rfl, rfl⟩

/-- R51 step 3: what a filled slot leaves of the pens. -/
structure PenSetFilled (q : PenSetAsk) (x y : Lane) : Prop where
  role : ∀ j, (y.pens.slots.get j).role =
    if j = q.slot then (if q.pen = 0 then .none else if q.floor then .floor else .standby)
    else (x.pens.slots.get j).role
  pen : ∀ j, (y.pens.slots.get j).pen = if j = q.slot then q.pen else (x.pens.slots.get j).pen
  fault : ∀ j, (y.pens.slots.get j).fault = if j = q.slot then 0 else (x.pens.slots.get j).fault
  floor : y.pens.floor = if q.pen ≠ 0 ∧ q.floor = true ∧ x.pens.floor = .vacant then .steady else x.pens.floor
  standby : ∀ e ∈ y.pens.standby, e ∈ x.pens.standby ∧
    (e.slot = q.slot → (x.pens.slots.get q.slot).role = .standby →
      q.pen = (x.pens.slots.get q.slot).pen ∧ ¬ (q.pen ≠ 0 ∧ q.floor = true))

theorem penSetFill_filled (q : PenSetAsk) (w : Work) : PenSetFilled q w.lane (penSetFill c q w).lane := by
  have clear := penSetClear_sameFloor q w
  obtain ⟨role, pen, fault⟩ := penSetSlot_fields c q ((penSetClear q w).slot q.slot)
  have slots (j : SlotId) : (penSetFill c q w).lane.pens.slots.get j =
      if j = q.slot then penSetSlot c q ((penSetClear q w).slot q.slot) else (penSetClear q w).slot j := by
    refine Eq.trans ?_ (setSlot_get (penSetClear q w) q.slot j _)
    unfold penSetFill
    dsimp only
    split <;> rfl
  have standby : (penSetFill c q w).lane.pens.standby = penSetStandby q w := by
    refine Eq.trans ?_ (penSetClear_standby q w)
    unfold penSetFill
    dsimp only
    split <;> rfl
  refine ⟨fun j => ?_, fun j => ?_, fun j => ?_, ?_, fun e he => ?_⟩
  · rw [slots]
    split
    · exact role
    · exact clear.role j
  · rw [slots]
    split
    · exact pen
    · exact clear.pen j
  · rw [slots]
    split
    · exact fault
    · exact clear.fault j
  · unfold penSetFill
    dsimp only
    rw [show ((penSetClear q w).setSlot q.slot (penSetSlot c q ((penSetClear q w).slot q.slot))).slot q.slot =
      penSetSlot c q ((penSetClear q w).slot q.slot) from Pair.get_set_same _ _ _, role]
    rw [show ((penSetClear q w).setSlot q.slot (penSetSlot c q ((penSetClear q w).slot q.slot))).lane.pens.floor =
      w.lane.pens.floor from clear.floor]
    by_cases zero : q.pen = 0
    · rw [if_pos zero, if_neg (fun h => Role.noConfusion h.1), if_neg (fun h => h.1 zero)]
      exact clear.floor
    · rw [if_neg zero]
      cases on : q.floor with
      | false =>
        rw [if_neg Bool.false_ne_true, if_neg (fun h => Role.noConfusion h.1), if_neg (fun h => Bool.false_ne_true h.2.1)]
        exact clear.floor
      | true =>
        rw [if_pos rfl]
        by_cases vacant : w.lane.pens.floor = .vacant
        · rw [if_pos ⟨rfl, vacant⟩, if_pos ⟨zero, rfl, vacant⟩]
          rfl
        · rw [if_neg (fun h => vacant h.2), if_neg (fun h => vacant h.2.2)]
          exact clear.floor
  · rw [standby] at he
    unfold penSetStandby at he
    split at he
    · obtain ⟨mem, other⟩ := List.mem_filter.1 he
      exact ⟨mem, fun same => absurd same (by simpa using other)⟩
    · rename_i kept
      refine ⟨he, fun _ role => ?_⟩
      rw [show (w.slot q.slot).role = .standby from role] at kept
      show q.pen = (w.slot q.slot).pen ∧ _
      simpa using kept

/-- R51: a PEN-SET that is allowed keeps one floor pen at most, never BARRED. -/
theorem PenSetFilled.floorOk {q : PenSetAsk} {x y : Lane} (g : PenSetFilled q x y) (h : x.FloorOk)
    (free : penSetBusy x.pens q = false) (new : penSetTaken x.pens q = false) : y.FloorOk := by
  obtain ⟨held, single, distinct⟩ := penSet_allowed free new
  have other (j : SlotId) (hj : j ≠ q.slot) : j = otherSlot q.slot := by
    cases j <;> cases hq : q.slot <;> first | rfl | exact absurd hq.symm hj
  have here : (y.pens.slots.get q.slot).role = if q.pen = 0 then .none else if q.floor then .floor else .standby := by
    rw [g.role, if_pos rfl]
  have there (j : SlotId) (hj : j ≠ q.slot) : (y.pens.slots.get j).role = (x.pens.slots.get j).role := by
    rw [g.role, if_neg hj]
  have holder (j : SlotId) : (y.pens.slots.get j).role = .floor ↔
      if j = q.slot then q.pen ≠ 0 ∧ q.floor = true else (x.pens.slots.get j).role = .floor := by
    by_cases hj : j = q.slot
    · rw [hj, here, if_pos rfl]
      by_cases zero : q.pen = 0
      · rw [if_pos zero]; exact ⟨nofun, fun k => absurd zero k.1⟩
      · rw [if_neg zero]
        cases q.floor
        · exact ⟨nofun, fun k => Bool.noConfusion k.2⟩
        · exact ⟨fun _ => ⟨zero, rfl⟩, fun _ => rfl⟩
    · rw [there j hj, if_neg hj]
  have used (role : (x.pens.slots.get q.slot).role ≠ .none) : (x.pens.slots.get q.slot).pen ≠ 0 :=
    fun zero => role ((h.empty q.slot).2 zero)
  have was (role : (x.pens.slots.get q.slot).role = .floor) : q.pen ≠ 0 ∧ q.floor = true := by
    obtain ⟨same, on⟩ := held role
    have nonzero : q.pen ≠ 0 := same ▸ used (by rw [role]; exact nofun)
    exact ⟨nonzero, on nonzero⟩
  refine floorOk_iff.2 ⟨⟨fun i j hi hj => ?_, ?_, fun j => ?_, fun i j hij => ?_, fun j => ?_, fun e he => ?_⟩, fun j hj => ?_⟩
  · rw [holder] at hi hj
    split at hi <;> split at hj
    · rename_i si sj; exact si.trans sj.symm
    · rename_i sj; exact absurd (other j sj ▸ hj) (single hi.1 hi.2)
    · rename_i si _; exact absurd (other i si ▸ hi) (single hj.1 hj.2)
    · exact h.posted.single i j hi hj
  · rw [g.floor]
    by_cases taken : q.pen ≠ 0 ∧ q.floor = true
    · have floor : (y.pens.slots.get q.slot).role = .floor := by rw [holder, if_pos rfl]; exact taken
      refine ⟨fun v => ?_, fun nobody => absurd floor (nobody _)⟩
      split at v
      · cases v
      · rename_i steady; exact absurd ⟨taken.1, taken.2, v⟩ steady
    · rw [if_neg fun k => taken ⟨k.1, k.2.1⟩, h.posted.vacant]
      refine forall_congr' fun j => not_congr ?_
      rw [holder]
      split
      · rename_i same
        exact ⟨fun role => absurd (was (same ▸ role)) taken, fun k => absurd k taken⟩
      · exact Iff.rfl
  · rw [g.pen]
    by_cases hj : j = q.slot
    · rw [hj, here, if_pos rfl]
      by_cases zero : q.pen = 0
      · rw [if_pos zero]; exact ⟨fun _ => zero, fun _ => rfl⟩
      · rw [if_neg zero]
        refine ⟨fun role => ?_, fun k => absurd k zero⟩
        split at role <;> cases role
    · rw [there j hj, if_neg hj]
      exact h.empty j
  · rw [g.pen, g.pen]
    by_cases hi : i = q.slot
    · have hj : j ≠ q.slot := fun k => hij (hi.trans k.symm)
      rw [if_pos hi, if_neg hj, other j hj]
      exact fun nonzero => (distinct nonzero).symm
    · rw [if_neg hi]
      by_cases hj : j = q.slot
      · rw [if_pos hj, other i hi]
        intro nonzero same
        exact distinct (same ▸ nonzero) same
      · rw [if_neg hj]; exact h.posted.distinct i j hij
  · rw [g.fault]
    split
    · exact Nat.zero_le _
    · exact h.fault j
  · obtain ⟨old, kept⟩ := g.standby e he
    have role := h.shadow e old
    by_cases slot : e.slot = q.slot
    · rw [slot] at role ⊢
      obtain ⟨same, not_floor⟩ := kept slot role
      have nonzero : q.pen ≠ 0 := same ▸ used (by rw [role]; exact nofun)
      rw [here, if_neg nonzero, if_neg fun on => not_floor ⟨nonzero, on⟩]
    · rw [there _ slot]; exact role
  · by_cases at_slot : j = q.slot
    · unfold PenSlot.health
      rw [g.fault, if_pos at_slot]
      exact Health.noConfusion
    · unfold PenSlot.health
      rw [g.fault, if_neg at_slot]
      exact h.barred j ((there j at_slot).symm.trans hj)

theorem acceptPenSet_floorOk (q : PenSetAsk) (w : Work) (free : penSetBusy w.lane.pens q = false)
    (new : penSetTaken w.lane.pens q = false) (h : w.lane.FloorOk) : (acceptPenSet c q w).lane.FloorOk := by
  have filled := (penSetFill_filled c q w).floorOk h free new
  rw [acceptPenSet_eq]
  split
  · exact filled
  · refine Lane.FloorOk.failover c ?_
    rw [reportHealth_lane]
    exact filled

end Pens

/-! ## The rule -/

theorem emptyLane_sameFloor (cause : DiscardCause) (w : Work) : w.lane.SameFloor (emptyLane cause w).lane :=
  Lane.sameFloor_noStandby rfl rfl rfl

theorem flushLane_sameFloor (c : LaneCtx) (w : Work) : w.lane.SameFloor (flushLane c w).lane := by
  refine (unlockFollower_followerOnly c .flush _).aside.sameFloor.after ?_
  exact (emptyLane_sameFloor .flush w).trans (Lane.sameFloor_of_pens rfl)

theorem afterHoldStart_sameFloor (x : Lane) : x.SameFloor x.afterHoldStart := by
  unfold Lane.afterHoldStart
  split
  · split
    · exact .refl x
    · exact Lane.sameFloor_of_pens rfl
    · exact Lane.sameFloor_noStandby rfl rfl rfl
  · exact .refl x

theorem afterHoldEnd_sameFloor (x : Lane) (now : Field) : x.SameFloor (x.afterHoldEnd now) := by
  unfold Lane.afterHoldEnd
  split <;> exact Lane.sameFloor_of_pens rfl

theorem afterLink_sameFloor (x : Lane) (mode : LinkMode) (now : Field) : x.SameFloor (x.afterLink mode now) := by
  unfold Lane.afterLink
  dsimp only
  split
  case h_3 => exact Lane.sameFloor_noStandby rfl rfl rfl
  case h_6 => exact Lane.sameFloor_noStandby rfl rfl rfl
  all_goals exact Lane.sameFloor_of_pens rfl

theorem acceptLink_sameFloor (c : LaneCtx) (mode : LinkMode) (w : Work) :
    w.lane.SameFloor (acceptLink mode c w).lane := by
  rw [acceptLink_lane]
  split
  · exact Lane.sameFloor_of_pens rfl
  · exact afterLink_sameFloor _ mode _

theorem setLaneParams_sameFloor (p : LaneParams) (w : Work) : w.lane.SameFloor (setLaneParams p w).lane :=
  (setPens_sameFloor (w := w) (p := { w.lane.pens with q := p.q, takeWindow := p.takeWindow }) rfl rfl fun _ => id).trans
    (Lane.sameFloor_of_pens rfl)

theorem acceptLaneSet_sameFloor (p : LaneParams) (c : LaneCtx) (w : Work) :
    w.lane.SameFloor (acceptLaneSet p c w).lane := by
  have set := setLaneParams_sameFloor p w
  unfold acceptLaneSet
  dsimp only
  split
  · split
    · unfold enableLane
      dsimp only
      split
      · rw [holdStart_lane]
        exact (afterHoldStart_sameFloor _).after (set.trans (Lane.sameFloor_of_pens rfl))
      · exact set.trans (Lane.sameFloor_of_pens rfl)
    · exact set
  · exact (set.trans (flushLane_sameFloor c _)).trans (Lane.sameFloor_of_pens rfl)

/-- After a reset both slots are empty. -/
theorem floorOk_reset : Lane.reset.FloorOk := by
  have slot (k : SlotId) : Lane.reset.pens.slots.get k = .empty := by cases k <;> rfl
  refine ⟨nofun, ⟨fun _ => ⟨nofun, nofun⟩, fun _ => rfl⟩, fun k => ?_, fun k role => ?_, fun used => absurd rfl used,
    fun k => ?_, nofun⟩
  · rw [slot]; exact ⟨fun _ => rfl, fun _ => rfl⟩
  · rw [slot] at role; cases role
  · rw [slot]; exact Nat.zero_le _

theorem laneRule_floorOk : LaneRule Lane.FloorOk where
  reset := floorOk_reset
  pens := pensFieldStart_floorOk
  hold c w h := h.same (holdFieldStart_aside c w).sameFloor
  composer fr par c w h := h.same (composerFieldStart_aside c fr par w).sameFloor
  compose fr par c w h := h.same (takeCompose_aside c fr par w).sameFloor
  onset c w h := h.same (enterOnset_aside c w).sameFloor
  opening fr c w h := h.same (openActive_aside c fr w).sameFloor
  burst c data w h := h.same (burstEnd_followerOnly c data w).aside.sameFloor
  holdStart cause c w h := holdStart_lane cause c w ▸ h.same (afterHoldStart_sameFloor _)
  holdEnd cause c w h := holdEnd_lane cause c w ▸ h.same (afterHoldEnd_sameFloor _ _)
  ingest := processIngest_floorOk
  laneSet p c w _ h := h.same (acceptLaneSet_sameFloor p c w)
  penSet := acceptPenSet_floorOk
  cue c first count w h := h.same (acceptCue_aside c first count w).sameFloor
  uncue w h := h.same (acceptUncue_followerOnly w).aside.sameFloor
  link m c w h := h.same (acceptLink_sameFloor c m w)
  flush c w h := h.same (flushLane_sameFloor c w)
  restore c k w _ := acceptRestore_floorOk c k w
  lost _ h := h.same (Lane.sameFloor_of_pens rfl)

/-- Settles O58, from the rule of `FloorOk`. -/
theorem floorIsInvariant : Obligations.FloorIsInvariant := fun _ _ h e => laneRule_floorOk.step h e

end Sys2Proof.Machine
end

section
/-!
O56, refuted. `Accounted` says nothing of the `cleared` mark of an entry of which nothing is composed; such an entry
with the mark set is accounted for, and the composition of its first character makes it one that is not.
-/
namespace Sys2Proof.Machine

/-- One element of a fold makes `Q` of `P`, and the others keep both: done once, in whatever place. -/
theorem foldl_once {α β : Type} [DecidableEq α] {P Q : β → Prop} {f : β → α → β} {x : α} {xs : List α} (b : β)
    (once : xs.count x = 1) (before : ∀ y ∈ xs, y ≠ x → ∀ b, P b → P (f b y)) (here : ∀ b, P b → Q (f b x))
    (after : ∀ y ∈ xs, y ≠ x → ∀ b, Q b → Q (f b y)) (h : P b) : Q (xs.foldl f b) := by
  have keep {R : β → Prop} (ys : List α) (all : ∀ y ∈ ys, ∀ b, R b → R (f b y)) (b : β) (k : R b) :
      R (ys.foldl f b) := by
    induction ys generalizing b with
    | nil => exact k
    | cons y ys ih => exact ih (fun z hz => all z (List.mem_cons_of_mem y hz)) _ (all y List.mem_cons_self b k)
  obtain ⟨front, back, rfl⟩ := List.append_of_mem (List.count_pos_iff.1 (once ▸ Nat.one_pos))
  rw [List.count_append, List.count_cons_self] at once
  have apart {ys : List α} (none : ys.count x = 0) : ∀ y ∈ ys, y ≠ x :=
    fun y hy e => List.count_eq_zero.1 none (e ▸ hy)
  rw [List.foldl_append, List.foldl_cons]
  refine keep back (fun y hy => after y ?_ (apart (by omega) y hy)) _ (here _ (keep front (fun y hy => before y ?_
    (apart (by omega) y hy)) b h))
  · exact List.mem_append_right _ (List.mem_cons_of_mem x hy)
  · exact List.mem_append_left _ hy

/-! ## A part about to compose -/

/-- A token of two characters, none placed, with the mark that its characters were emptied away. -/
def markedEntry : Entry :=
  { body := .token { tag := 0, due := 0, newline := false, speaker := false, text := [0x48, 0x49], script := none },
    composed := 0, split := false, cleared := true, spk := (0, 0) }

/-- A lane in RUN with that entry queued and a budget of one cell. -/
def markedLane : Lane :=
  { Lane.reset with
    hold := { Hold.reset with state := .run, counters := { Counters.zero with admitted := 1, queued := 1 } }
    composer := { Composer.reset with
      emission := [markedEntry], pendingClear := false, c := 1, r := 3, w := 32 } }

/-- All lines low. -/
def lowLevels : Levels := ⟨false, false, false, false, false⟩

/-- A running part one line before the composition, with an AIR window for lane 0 alone. -/
def markedPart : State :=
  { State.reset with
    pending := [.realLp lowLevels]
    timer := { FieldTimer.reset with
      timing := some { eOdd := 312, eEven := 313, k := 300, period := 20000, vaGuard := 3, ovrGuard := 3 }
      field := some { n := 299, parity := .odd, origin := .real, composeRaised := false } }
    path := { MemoryPath.reset false with windows := [some { base := 0x4000, length := 64, kind := .air, lane := some .l0 }] }
    lanes := { Quad.all Lane.reset with l0 := markedLane }
    unit := { CommandUnit.reset .power ⟨false, false, false⟩ with partState := .running } }

/-- A composer of which no entry is begun and whose row image is empty is aligned. -/
theorem aligned_of_unbegun {x : Composer} (unbegun : ∀ e ∈ x.emission, e.composed = 0) (empty : x.rows.spans = []) :
    x.Aligned :=
  ⟨fun e he => unbegun e (List.mem_of_mem_tail he), (by rw [empty]; exact nofun),
    fun e he begun => absurd (unbegun e (List.mem_of_mem_head? he)) begun⟩

theorem accounted_reset : Lane.reset.Accounted := ⟨by decide, by decide, by decide, aligned_of_unbegun nofun rfl⟩

theorem accounted_markedLane : markedLane.Accounted :=
  ⟨by decide, by decide, by decide, aligned_of_unbegun (fun e he => by rw [List.mem_singleton.1 he]; rfl) rfl⟩

theorem accounted_markedPart (l : LaneId) : (markedPart.lanes.get l).Accounted := by
  cases l
  · exact accounted_markedLane
  all_goals exact accounted_reset

/-! ## The composition -/

/-- The pieces of work of the event: the four compositions. -/
theorem markedPart_lineEvent : lineOther { eOdd := 312, eEven := 313, k := 300, period := 20000, vaGuard := 3, ovrGuard := 3 }
      lowLevels markedPart.timer.refState markedPart.timer.lpTaken (markedPart.withPending []) =
    runTasks (composeTasks .even) ((markedPart.withPending []).setTimer
      { markedPart.timer.lpTaken with
        field := some { n := 300, parity := .odd, origin := .real, composeRaised := true } }) := rfl

/-- The part as it stands before and after lane 0's composition, whatever else has been composed: the path is free,
nothing is requested, and lane 0 is as `P` says. -/
structure Composing0 (P : Lane → Prop) (s : State) : Prop where
  path : s.path = markedPart.path
  unit : s.unit = markedPart.unit
  engine : s.engine = ⟨[], []⟩
  lane : P s.lanes.l0

/-- A lane without an AIR window composes nothing. -/
theorem markedPart_composing {P : Lane → Prop} {s : State} (h : Composing0 P s) (l : LaneId) :
    s.composing l = (l == .l0) := by
  unfold State.composing State.windowOf
  rw [h.path, h.unit]
  cases l <;> rfl

/-- R145: the entry's first character is placed, and its `cleared` mark stays. -/
theorem takeCompose_markedLane (fr : Bool) (p : Parity) (c : LaneCtx) :
    (takeCompose fr p c { lane := markedLane, out := [] }).out = [] ∧
      ¬ (takeCompose fr p c { lane := markedLane, out := [] }).lane.composer.Aligned := by
  have fresh : takeCompose fr p c { lane := markedLane, out := [] } = composeFresh (c.now + 1) { lane := markedLane, out := [] } := by
    cases fr
    · rfl
    · cases p <;> rfl
  rw [fresh]
  refine ⟨rfl, fun aligned => ?_⟩
  obtain ⟨gone, -⟩ := aligned.2.2 { markedEntry with composed := 1 } rfl (by decide)
  exact List.cons_ne_nil _ _ (gone rfl)

/-- The composition of a lane other than 0 is none. -/
theorem runTask_markedOther {P : Lane → Prop} {l : LaneId} (other : l ≠ .l0) (p : Parity) {s : State}
    (h : Composing0 P s) : Composing0 P (runTask s (.compose l p)) := by
  have none : runTask s (.compose l p) = s := by
    show (if s.composing l then _ else s) = s
    rw [markedPart_composing h]
    exact if_neg (by simpa using other)
  rw [none]
  exact h

theorem runTask_markedLane (p : Parity) {s : State} (h : Composing0 (· = markedLane) s) :
    Composing0 (¬ ·.composer.Aligned) (runTask s (.compose .l0 p)) := by
  have work : laneWork .l0 (takeCompose s.unit.fieldRepeat p) s =
      takeCompose s.unit.fieldRepeat p (s.laneCtx .l0) { lane := markedLane, out := [] } := by
    unfold laneWork
    rw [show s.lanes.get .l0 = markedLane from h.lane]
  obtain ⟨quiet, crooked⟩ := takeCompose_markedLane s.unit.fieldRepeat p (s.laneCtx .l0)
  rw [← work] at quiet crooked
  have run : runTask s (.compose .l0 p) = runLane .l0 (takeCompose s.unit.fieldRepeat p) s := by
    show (if s.composing .l0 then _ else s) = _
    rw [markedPart_composing h]
    rfl
  rw [run, runLane_quiet quiet]
  exact ⟨h.path, h.unit, h.engine, crooked⟩

/-- After the event lane 0's composer is not aligned, in whatever order the lanes compose. -/
theorem markedPart_tasks {s : State} (h : Composing0 (· = markedLane) s) :
    Composing0 (¬ ·.composer.Aligned) (runTasks (composeTasks .even) s) := by
  have each : ∀ k ∈ permute (Config.freeOrder s.freeIndex) (composeTasks .even), ∃ l, k = .compose l .even := by
    intro k hk
    obtain ⟨l, -, rfl⟩ := List.mem_map.1 (mem_permute.1 hk)
    exact ⟨l, rfl⟩
  have others (P : Lane → Prop) : ∀ k ∈ permute (Config.freeOrder s.freeIndex) (composeTasks .even),
      k ≠ .compose .l0 .even → ∀ t, Composing0 P t → Composing0 P (runTask t k) := by
    intro k hk ne t ht
    obtain ⟨l, rfl⟩ := each k hk
    exact runTask_markedOther (fun e => ne (by rw [e])) _ ht
  unfold runTasks freshOrder
  exact foldl_once (x := .compose .l0 .even) _ ((permute_perm _ _).count_eq _ |>.trans (by decide)) (others _) (fun _ => runTask_markedLane .even) (others _) ⟨h.path, h.unit, h.engine, h.lane⟩

/-- Refutes O56: the first character of an entry with the `cleared` mark is composed. -/
theorem not_accountingIsInvariant : ¬ Obligations.AccountingIsInvariant := by
  intro h
  have done := markedPart_tasks (s := (markedPart.withPending []).setTimer
    { markedPart.timer.lpTaken with
      field := some { n := 300, parity := .odd, origin := .real, composeRaised := true } }) ⟨rfl, rfl, rfl, rfl⟩
  rw [← markedPart_lineEvent] at done
  have quiet := settle_quiet (s := lineOther _ lowLevels markedPart.timer.refState markedPart.timer.lpTaken
      (markedPart.withPending []))
    (fun _ => by rw [done.path, done.engine]; exact ⟨rfl, rfl, rfl⟩) (by rw [done.unit]; exact nofun)
  have kept := h markedPart _ accounted_markedPart rfl .l0
  exact done.lane (quiet ▸ kept.aligned)

end Sys2Proof.Machine
end

section
/-!
O1, O3, O4, O6, O53, O55: the step, the values after a reset, the unloaded timer and the guard filters.
-/
namespace Sys2Proof.Machine

/-- Settles O1. -/
theorem stepRunsTheFrontCommand : Obligations.StepRunsTheFrontCommand := by
  constructor
  · intro s c rest h
    unfold step
    rw [h]
  · intro s h
    unfold step
    rw [h]

/-- A lane after a reset: its check values are what the Conventions compute (`packet_reset_check`). -/
theorem packet_reset_eq : Packet.reset =
    { generation := 0, target := 0, repeatFlag := false, twinFlag := false, cells := [], laneState := .off,
      column := 0, holdDepth := 0, emissionDepth := 0, l := 0, d := 0, follow := .none, cursor := 0,
      floorSlot := none, healthA := none, healthB := none, check := checkWords (List.replicate 15 0), budget := 0 } := by
  rw [← packet_reset_check]
  rfl

theorem reset_lane (l : LaneId) : State.reset.lanes.get l = .reset := Quad.get_all _ l

/-- Settles O3. -/
theorem resetValues : Obligations.ResetValues := by
  unfold Obligations.ResetValues
  dsimp only
  rw [← packet_reset_eq]
  refine ⟨rfl, rfl, rfl, rfl, rfl, rfl, rfl, fun l => ?_, fun a => ?_, rfl, rfl, rfl, rfl, rfl, rfl, rfl⟩
  · rw [reset_lane]
    refine ⟨fun k => ?_, rfl, rfl, rfl, rfl, rfl, rfl, rfl, rfl, rfl, rfl, rfl⟩
    cases k <;> rfl
  · cases a with
    | lane l => cases l <;> rfl
    | command => rfl

/-- Settles O4. -/
theorem resetCommandsResetThePart : Obligations.ResetCommandsResetThePart := by
  intro s straps
  refine ⟨resetPart .power straps s, resetPart .pin straps s, rfl, rfl, rfl, rfl, ?_⟩
  rintro x (rfl | rfl)
  · exact ⟨rfl, rfl, rfl, rfl, rfl, rfl, rfl, rfl⟩
  · exact ⟨rfl, rfl, rfl, rfl, rfl, rfl, rfl, rfl⟩

/-- Settles O6. -/
theorem unloadedTimerIgnoresLines : Obligations.UnloadedTimerIgnoresLines := by
  intro s fo v h
  have fp : takeFp fo v s = s := by unfold takeFp; rw [h]
  have lp : takeLp v s = s := by unfold takeLp; rw [h]
  have synthesised : takeSynthesised v s = s := by unfold takeSynthesised; rw [h]
  have absence : takeAbsence v s = s := by unfold takeAbsence; rw [h]
  exact ⟨congrArg (answer true) fp, congrArg (answer true) lp, congrArg (answer true) synthesised,
    congrArg (answer true) absence⟩

/-! ## Guard filters (R13) -/

theorem sample_taken (x : Guard) (g : Nat) : x.sample g x.taken = ({ x with run := 0 }, false) := if_pos rfl

/-- A sample of the other level counts, or is the one that is taken. -/
theorem sample_other (x : Guard) (g : Nat) : x.sample g (!x.taken) =
    if x.run + 1 = g then ({ taken := !x.taken, run := 0 }, true) else ({ x with run := x.run + 1 }, false) :=
  if_neg (by simp)

/-- Settles O53. -/
theorem guardTakesTheGthSample : Obligations.GuardTakesTheGthSample := by
  intro x g _
  refine ⟨sample_taken x g, fun early => ?_, fun last => ?_⟩
  · rw [sample_other, if_neg (Nat.ne_of_lt early)]
  · rw [sample_other, if_pos last]

/-! ## The invariants after a reset -/

/-- Settles O55. -/
theorem invariantsHoldAtReset : Obligations.InvariantsHoldAtReset := by
  refine ⟨fun l => ?_, holdsOk_of_off rfl, pathOk_afterReset _ _ _ _, Nat.zero_le _⟩
  rw [reset_lane]
  exact ⟨accounted_reset, laneRule_bounded.reset, floorOk_reset, laneRule_timed.reset⟩

end Sys2Proof.Machine
end

section
/-!
O7 to O9: the timer and the frame of a line event. While no port waits for a FREE Port M, the arbitration that ends an
event grants an engine access at most, which reaches neither the lanes nor the timer.
-/
namespace Sys2Proof.Machine

/-! ## The end of an event with no port waiting -/

theorem LineFrame.trans {s t u : State} (h : LineFrame s t) (k : LineFrame t u) : LineFrame s u where
  pending := k.pending.trans h.pending
  asm := k.asm.trans h.asm
  portH := ⟨k.portH.1.trans h.portH.1, k.portH.2.trans h.portH.2⟩
  portV := ⟨k.portV.1.trans h.portV.1, k.portV.2.trans h.portV.2⟩
  limit := k.limit.trans h.limit
  copy := k.copy.trans h.copy
  soft := k.soft.trans h.soft
  unit running := by
    obtain ⟨unit, windows⟩ := h.unit running
    obtain ⟨unit', windows'⟩ := k.unit (by rw [unit]; exact running)
    exact ⟨unit'.trans unit, windows'.trans windows⟩

/-- What the end of an event leaves when no port waits: the frame of a line event, the timer, the lanes and the Report
Unit. -/
structure Settled (s t : State) : Prop extends LineFrame s t where
  timer : t.timer = s.timer
  lanes : t.lanes = s.lanes
  report : t.report = s.report

theorem Settled.refl (s : State) : Settled s s := ⟨.refl s, rfl, rfl, rfl⟩

theorem Settled.trans {s t u : State} (h : Settled s t) (k : Settled t u) : Settled s u :=
  ⟨h.toLineFrame.trans k.toLineFrame, k.timer.trans h.timer, k.lanes.trans h.lanes, k.report.trans h.report⟩

theorem finishStopping_settled (s : State) : Settled s (finishStopping s) := by
  unfold finishStopping
  split
  · rename_i stopping
    exact ⟨⟨rfl, rfl, ⟨rfl, rfl⟩, ⟨rfl, rfl⟩, rfl, rfl, rfl, fun running => absurd stopping.1 running⟩, rfl, rfl, rfl⟩
  · exact .refl s

theorem grantEngine_settled (q : Request) (served : Served) (s : State) :
    Settled s (grantEngine q (s.setServed served)) :=
  ⟨⟨rfl, rfl, ⟨rfl, rfl⟩, ⟨rfl, rfl⟩, rfl, rfl, rfl, fun _ => ⟨rfl, rfl⟩⟩, rfl, rfl, rfl⟩

theorem State.PortsQuiet.port {s : State} (h : s.PortsQuiet) (p : Port) : (s.portUnit p).waiting? = none := by
  cases p
  · exact h.1
  · exact h.2

theorem arbitrate_settled {s : State} (quiet : s.path.portM = none → s.PortsQuiet) : Settled s (arbitrate s) := by
  have step := arbitrate_arbitrated s
  revert step
  generalize arbitrate s = t
  intro step
  cases step with
  | busy _ => exact .refl s
  | quiet _ => exact .refl s
  | port p x served free waits => rw [(quiet free).port p] at waits; cases waits
  | engine q served _ _ _ => exact grantEngine_settled q served s

/-- Nobody waits at a port whose state and response are as they were. -/
theorem waiting_same {u v : PortUnit} (h : v.state = u.state) : v.waiting? = u.waiting? := by
  unfold PortUnit.waiting?
  rw [h]

theorem settle_settled {s : State} (quiet : s.path.portM = none → s.PortsQuiet) : Settled s (settle s) := by
  have alike := finishStopping_alike s
  refine (finishStopping_settled s).trans ((arbitrate_settled fun free => ?_).trans (finishStopping_settled _))
  obtain ⟨h, v⟩ := quiet (alike.portM ▸ free)
  exact ⟨(waiting_same alike.portH.1).trans h, (waiting_same alike.portV.1).trans v⟩

/-! ## Line events -/

/-- R3: what a line event leaves while no port waits. -/
theorem lineEvent_settled {s : State} (waits : s.NoneWaits) (t : Timing) (v : Levels) (old : RefState) (x : FieldTimer)
    (work : List Task) : Settled (lineEvent t v old x work s) (settle (lineEvent t v old x work s)) := by
  have frame := runTasks_lineWork (referenceTasks old x.refState ++ work ++ onsetTasks t v x ++
    overrideTasks s.unit.softOverride x.ovr.taken (x.sampled t v).ovr.taken) (s.setTimer (x.sampled t v))
  refine settle_settled fun free => ?_
  obtain ⟨h, v, -⟩ := waits (frame.portM ▸ free)
  exact ⟨(waiting_same frame.frame.portH.1).trans h, (waiting_same frame.frame.portV.1).trans v⟩

theorem lineEvent_frame {s : State} (waits : s.NoneWaits) (t : Timing) (v : Levels) (old : RefState) (x : FieldTimer)
    (work : List Task) :
    (settle (lineEvent t v old x work s)).timer = x.sampled t v ∧
      LineFrame s (settle (lineEvent t v old x work s)) := by
  have done := lineEvent_settled waits t v old x work
  have work := runTasks_lineWork (referenceTasks old x.refState ++ work ++ onsetTasks t v x ++
    overrideTasks s.unit.softOverride x.ovr.taken (x.sampled t v).ovr.taken) (s.setTimer (x.sampled t v))
  exact ⟨done.timer.trans (lineEvent_timer ..), LineFrame.trans (t := s.setTimer (x.sampled t v))
    ⟨rfl, rfl, ⟨rfl, rfl⟩, ⟨rfl, rfl⟩, rfl, rfl, rfl, fun _ => ⟨rfl, rfl⟩⟩ (work.frame.trans done.toLineFrame)⟩

/-- R4: the irregular starts counted. -/
theorem realFp_irregular (x : FieldTimer) (t : Timing) (fo : Bool) : (x.realFp t fo).irregular = x.irregular +
    (match x.field with
     | none => 0
     | some c => if c.n ≠ t.expected c.parity ∨ c.parity = (if fo then .odd else .even) then 1 else 0) := by
  unfold FieldTimer.realFp
  dsimp only
  cases x.field with
  | none => exact (BitVec.add_zero _).symm
  | some c =>
    have irregular : irregularStart t c (parityOf fo) = true ↔
        c.n ≠ t.expected c.parity ∨ c.parity = (if fo then .odd else .even) := by
      unfold irregularStart parityOf
      rw [Bool.or_eq_true, bne_iff_ne, beq_iff_eq]
    dsimp only
    by_cases h : irregularStart t c (parityOf fo) = true
    · rw [if_pos h, if_pos (irregular.1 h)]
    · rw [if_neg h, if_neg (mt irregular.2 h)]
      exact (BitVec.add_zero _).symm

/-- Settles O7. -/
theorem realFpStartsField : Obligations.RealFpStartsField := by
  intro s fo v t loaded waits
  obtain ⟨timer, frame⟩ := lineEvent_frame waits t v s.timer.refState (s.timer.realFp t fo) (fieldStartTasks (parityOf fo))
  have next : exec (.realFp fo v) s = .next (settle (lineFp t fo v s)) := by
    show answer true (takeFp fo v s) = _
    unfold takeFp
    rw [loaded]
    rfl
  refine ⟨_, next, ?_⟩
  unfold lineFp
  rw [timer]
  have sampled := sampled_sampled t v (s.timer.realFp t fo)
  refine ⟨rfl, ?_, ?_, realFp_irregular _ t fo, rfl, ⟨sampled.timing, sampled.va, sampled.ovr⟩, frame⟩
  · cases fo <;> rfl
  · show (match s.timer.refState with | .locked => _ | .freewheel => _ | .lineLost => _) = _
    cases s.timer.refState <;> rfl

/-! ## LP and synthesised lines -/

/-- R5: what a line leaves of the timer beside the field and the reference state. -/
theorem line_same (x : FieldTimer) (t : Timing) :
    (x.line t).1.timing = x.timing ∧ (x.line t).1.va = x.va ∧ (x.line t).1.ovr = x.ovr ∧
      (x.line t).1.absenceRunning = x.absenceRunning ∧ (x.line t).1.lineTimerRunning = x.lineTimerRunning ∧
      (x.line t).1.irregular = x.irregular := by
  unfold FieldTimer.line
  split
  · exact ⟨rfl, rfl, rfl, rfl, rfl, rfl⟩
  · split
    · split <;> exact ⟨rfl, rfl, rfl, rfl, rfl, rfl⟩
    · exact ⟨rfl, rfl, rfl, rfl, rfl, rfl⟩

/-- R5, R6: the line count and the field count after a line. -/
theorem line_field (x : FieldTimer) (t : Timing) : FieldAfterLine t x (x.line t).1 := by
  unfold FieldAfterLine FieldTimer.line
  cases field : x.field with
  | none => exact ⟨field, rfl⟩
  | some c =>
    dsimp only
    split
    · refine ⟨?_, by split <;> rfl⟩
      split
      · rename_i raise
        rw [raise.2, beq_iff_eq.2 raise.1]
        rfl
      · rename_i stay
        cases raised : c.composeRaised with
        | true => rw [← raised]; simp [raised]
        | false =>
          have : (c.n + 1 == t.k) = false := beq_eq_false_iff_ne.2 fun e => stay ⟨e, raised⟩
          rw [this, ← raised]
          simp [raised]
    · exact ⟨rfl, rfl⟩

/-- R6: a synthesised field start takes LOCKED to FREEWHEEL; F tells whether there was one. -/
theorem line_refState (x : FieldTimer) (t : Timing) : (x.line t).1.refState =
    if (x.line t).1.f = x.f then x.refState else if x.refState = .lineLost then .lineLost else .freewheel := by
  unfold FieldTimer.line
  split
  · exact (if_pos rfl).symm
  · split
    · split <;> exact (if_pos rfl).symm
    · have advanced : x.f + 1 ≠ x.f := by simp
      dsimp only
      rw [if_neg advanced]
      cases x.refState <;> rfl

/-- An LP or synthesised line: its timer with the filters sampled, and the frame. -/
theorem lineOther_frame {s : State} (waits : s.NoneWaits) (t : Timing) (v : Levels) (old : RefState) (x : FieldTimer) :
    (settle (lineOther t v old x s)).timer = (x.line t).1.sampled t v ∧ LineFrame s (settle (lineOther t v old x s)) :=
  lineEvent_frame waits t v old _ _

/-- R13: the filters' samples are of the levels before the event. -/
theorem line_sampled {x y : FieldTimer} (t : Timing) (v : Levels) (timing : x.timing = y.timing) (va : x.va = y.va)
    (ovr : x.ovr = y.ovr) : Sampled t v y ((x.line t).1.sampled t v) := by
  obtain ⟨htiming, hva, hovr, -⟩ := line_same x t
  have sampled := sampled_sampled t v (x.line t).1
  exact ⟨sampled.timing.trans (htiming.trans timing), fun l => by rw [sampled.va, hva, va], by rw [sampled.ovr, hovr, ovr]⟩

theorem FieldAfterLine.of_same {t : Timing} {x y z : FieldTimer} (h : FieldAfterLine t x z) (field : x.field = y.field)
    (f : x.f = y.f) : FieldAfterLine t y z := by
  unfold FieldAfterLine at h ⊢
  rw [field, f] at h
  exact h

/-- Settles O8. -/
theorem realLpAdvancesLine : Obligations.RealLpAdvancesLine := by
  intro s v t loaded waits
  obtain ⟨timer, frame⟩ := lineOther_frame waits t v s.timer.refState s.timer.lpTaken
  have next : exec (.realLp v) s = .next (settle (lineOther t v s.timer.refState s.timer.lpTaken s)) := by
    show answer true (takeLp v s) = _
    unfold takeLp
    rw [loaded]
    rfl
  obtain ⟨-, -, -, absence, fallback, irregular⟩ := line_same s.timer.lpTaken t
  refine ⟨_, next, ?_⟩
  rw [timer]
  refine ⟨(line_field s.timer.lpTaken t).of_same rfl rfl, ?_, absence, fallback, irregular,
    line_sampled t v rfl rfl rfl, frame⟩
  refine (line_refState s.timer.lpTaken t).trans ?_
  have f : s.timer.lpTaken.f = s.timer.f := rfl
  show (if (s.timer.lpTaken.line t).1.f = s.timer.f then _ else _) =
    if (s.timer.lpTaken.line t).1.f = s.timer.f ∧ _ then _ else _
  have state : s.timer.lpTaken.refState = if s.timer.refState = .locked then .locked else .freewheel := by
    show (match s.timer.refState with | .locked => _ | .freewheel => _ | .lineLost => _) = _
    cases s.timer.refState <;> rfl
  rw [state]
  by_cases same : (s.timer.lpTaken.line t).1.f = s.timer.f <;> by_cases locked : s.timer.refState = .locked <;>
    simp [same, locked]

/-- Settles O9. -/
theorem lostLineIsSynthesised : Obligations.LostLineIsSynthesised := by
  constructor
  · intro s v t loaded waits lost running
    obtain ⟨timer, frame⟩ := lineOther_frame waits t v .lineLost s.timer
    have next : exec (.synthesisedLine v) s = .next (settle (lineOther t v .lineLost s.timer s)) := by
      show answer true (takeSynthesised v s) = _
      unfold takeSynthesised
      rw [loaded]
      exact congrArg (answer true) (if_pos ⟨lost, running⟩)
    obtain ⟨-, -, -, absence, fallback, irregular⟩ := line_same s.timer t
    refine ⟨_, next, ?_⟩
    rw [timer]
    refine ⟨line_field s.timer t, ?_, fallback.trans running, absence, irregular, line_sampled t v rfl rfl rfl, frame⟩
    refine (line_refState s.timer t).trans ?_
    rw [lost, if_pos rfl, ite_self]
  · intro s v t loaded waits found running
    obtain ⟨timer, frame⟩ := lineOther_frame waits t v s.timer.refState s.timer.lpLost
    have next : exec (.lpAbsence v) s = .next (settle (lineOther t v s.timer.refState s.timer.lpLost s)) := by
      show answer true (takeAbsence v s) = _
      unfold takeAbsence
      rw [loaded]
      exact congrArg (answer true) (if_pos ⟨found, running⟩)
    obtain ⟨-, -, -, absence, fallback, irregular⟩ := line_same s.timer.lpLost t
    refine ⟨_, next, ?_⟩
    rw [timer]
    refine ⟨(line_field s.timer.lpLost t).of_same rfl rfl, ?_, fallback, absence, irregular,
      line_sampled t v rfl rfl rfl, frame⟩
    refine (line_refState s.timer.lpLost t).trans ?_
    rw [show s.timer.lpLost.refState = .lineLost from rfl, if_pos rfl, ite_self]

end Sys2Proof.Machine
end

section
/-!
O10, O11: the composition and the swap of a lane's packets at a line event. Of the work of the event only a lane's own
composition and swap reach its packets, its marks and its generation: the other work changes the emission queue and the
row image alone (`Composer.SameAir`).
-/
namespace Sys2Proof.Machine

/-- The composers differ in the emission queue, the row image, the erase debt and the pending CLEAR alone. -/
def Composer.SameAir (x y : Composer) : Prop :=
  y = { x with emission := y.emission, rows := y.rows, eraseDebt := y.eraseDebt, pendingClear := y.pendingClear }

theorem Composer.SameAir.refl (x : Composer) : x.SameAir x := rfl

theorem Composer.SameAir.trans {x y z : Composer} (h : x.SameAir y) (k : y.SameAir z) : x.SameAir z := by
  unfold Composer.SameAir at *
  rw [k, h]

/-- A fact about a composer that reads none of those. -/
theorem Composer.SameAir.keep {x y : Composer} (h : x.SameAir y) {α : Sort*} (f : Composer → α)
    (reads : ∀ x e r d p, f { x with emission := e, rows := r, eraseDebt := d, pendingClear := p } = f x) : f y = f x := by
  unfold Composer.SameAir at h
  rw [h]
  exact reads x _ _ _ _

/-- The same for lanes. -/
def Lane.SameAir (x y : Lane) : Prop := x.composer.SameAir y.composer

theorem Lane.SameAir.refl (x : Lane) : x.SameAir x := Composer.SameAir.refl _

theorem Lane.SameAir.trans {x y z : Lane} (h : x.SameAir y) (k : y.SameAir z) : x.SameAir z :=
  Composer.SameAir.trans h k

theorem Lane.SameAir.after {x y z : Lane} (k : y.SameAir z) (h : x.SameAir y) : x.SameAir z := h.trans k

theorem Lane.sameAir_of_composer {x y : Lane} (h : y.composer = x.composer) : x.SameAir y := by
  unfold Lane.SameAir
  rw [h]
  exact .refl _

theorem Lane.FollowerOnly.sameAir {x y : Lane} (h : x.FollowerOnly y) : x.SameAir y :=
  Lane.sameAir_of_composer (by rw [h])

/-! ## Admission and the Pen Monitor -/

section Work
variable (c : LaneCtx)

theorem enterOnset_composer (w : Work) : (enterOnset c w).lane.composer = w.lane.composer := by
  unfold enterOnset
  dsimp only
  split
  · rfl
  · split
    · rfl
    · split <;> rfl

theorem measure_composer (tag : Half) (a o : Field) (w : Work) :
    (measure c tag a o w).lane.composer = w.lane.composer := by
  unfold measure
  dsimp only
  split <;> rfl

theorem startAndPair_composer (fromList gap : Bool) (tag : Half) (a : Field) (w : Work) :
    (startAndPair c fromList gap tag a w).lane.composer = w.lane.composer := by
  have pair (v : Work) : (pairStart c tag a v).lane.composer = v.lane.composer := by
    unfold pairStart
    dsimp only
    split
    · rfl
    · exact measure_composer c tag a _ _
  unfold startAndPair
  dsimp only
  split
  · rfl
  · split
    · exact pair _
    · rfl

/-- R91 step 4: a token passes to the emission queue when the hold queue is full. -/
theorem enterHold_sameAir (t : Tok) (w : Work) : w.lane.SameAir (enterHold t w).1.lane := by
  unfold enterHold
  dsimp only
  split
  · exact .refl _
  · split
    · split
      · exact .refl _
      · exact rfl
    · exact .refl _

theorem admitCandidate_sameAir (slot : SlotId) (fromList : Bool) (t : Candidate) (w : Work) :
    w.lane.SameAir (admitCandidate c slot fromList t w).1.lane :=
  (Lane.sameAir_of_composer (startAndPair_composer c fromList t.gap t.tag t.arrival w)).trans
    ((compareToken_followerOnly c _ _).sameAir.trans (enterHold_sameAir _ _))

theorem resolveEntries_sameAir (new : SlotId) (reference : Option Field) (es : List StandbyEntry) (w : Work) :
    w.lane.SameAir (es.foldl (resolveEntry c new reference) w).lane := by
  induction es generalizing w with
  | nil => exact .refl _
  | cons e es ih =>
    refine Lane.SameAir.trans ?_ (ih _)
    unfold resolveEntry
    split
    · exact admitCandidate_sameAir c new true _ w
    · exact .refl _

theorem transfer_sameAir (new : SlotId) (cause : FloorCause) (w : Work) :
    w.lane.SameAir (transfer c new cause w).lane := by
  have roles : w.lane.SameAir (transferRoles new w).lane := by
    refine Lane.sameAir_of_composer ?_
    unfold transferRoles
    split <;> rfl
  have resolved : (transferRoles new w).lane.SameAir (resolveStandby c new (transferRoles new w)).lane :=
    resolveEntries_sameAir c _ _ _ ((transferRoles new w).setPens { (transferRoles new w).lane.pens with standby := [] })
  exact roles.trans resolved

theorem failover_sameAir (w : Work) : w.lane.SameAir (failover c w).lane := by
  unfold failover
  split
  · exact .refl _
  · split
    · exact .refl _
    · dsimp only
      split
      · split
        · exact transfer_sameAir c _ _ w
        · exact .refl _
      · split
        · exact transfer_sameAir c _ _ w
        · exact .refl _

theorem pensFieldStart_sameAir (w : Work) : w.lane.SameAir (pensFieldStart c w).lane := by
  refine (failover_sameAir c _).after (Lane.sameAir_of_composer ?_)
  unfold lapseHandover
  split
  · split <;> rfl
  · rfl
  · rfl

/-! ## The Hold Queue and Override Control -/

theorem holdFieldStart_sameAir (w : Work) : w.lane.SameAir (holdFieldStart c w).lane := by
  have report : (reportOverrun c w).lane.composer = w.lane.composer := by
    unfold reportOverrun
    dsimp only
    split <;> rfl
  have released (v : Work) : v.lane.SameAir (release c v).lane := by
    unfold release
    dsimp only
    split
    · exact rfl
    · exact .refl _
  exact (Lane.sameAir_of_composer report).trans (released _)

theorem afterHoldStart_sameAir (x : Lane) : x.SameAir x.afterHoldStart := by
  unfold Lane.afterHoldStart
  split
  · split
    · exact .refl x
    · exact rfl
    · exact rfl
  · exact .refl x

theorem afterHoldEnd_sameAir (x : Lane) (now : Field) : x.SameAir (x.afterHoldEnd now) := by
  unfold Lane.afterHoldEnd
  split
  · exact .refl x
  · exact .refl x
  · exact rfl
  · exact .refl x

/-! ## Compositions (R142, R143) -/

theorem placeChar_sameAir (x : Composer) (e : Entry) (rest : List Entry) (a b : Bool) :
    x.SameAir (placeChar x e rest a b).composer := rfl

theorem nextCell_sameAir (x : Composer) (e : Entry) (rest : List Entry) : x.SameAir (nextCell x e rest).composer := by
  unfold nextCell
  dsimp only
  split
  · split <;> exact rfl
  · split <;> exact rfl

theorem placeEntries_sameAir (n : Nat) (g : Composing) : g.composer.SameAir (placeEntries n g).composer := by
  induction n generalizing g with
  | zero => exact .refl _
  | succ n ih =>
    unfold placeEntries
    split
    · exact .refl _
    · rename_i e rest _
      exact (nextCell_sameAir g.composer e rest).trans (ih _)

theorem freshCells_sameAir (state : LaneState) (x : Composer) (k : Counters) :
    x.SameAir (freshCells state x k).composer := by
  have clear : x.SameAir (placeClear { composer := x, counters := k, cells := [] }).composer := by
    unfold placeClear
    split <;> exact rfl
  have erases : x.SameAir (placeErases (placeClear { composer := x, counters := k, cells := [] })).composer :=
    clear.trans rfl
  unfold freshCells
  dsimp only
  split
  · split
    · exact erases.trans (placeEntries_sameAir _ _)
    · exact erases
  · exact clear

/-- What a composition leaves: the composed mark, the next generation, and NEXT for its target field. -/
structure Composed (target : Field) (x y : Composer) : Prop where
  composed : y.composed = true
  target : y.next.target = target
  generation : y.generation = x.generation + 1

theorem finishComposition_composed (target : Field) (r t twin : Bool) (cells : List Cell) (budget : Nat) (w : Work) :
    Composed target w.lane.composer (finishComposition target r t twin cells budget w).lane.composer := ⟨rfl, rfl, rfl⟩

theorem composeFresh_composed (target : Field) (w : Work) :
    Composed target w.lane.composer (composeFresh target w).lane.composer := by
  have generation : (freshCells w.lane.hold.state w.lane.composer w.lane.hold.counters).composer.generation =
      w.lane.composer.generation := (freshCells_sameAir _ _ _).keep Composer.generation fun _ _ _ _ _ => rfl
  exact ⟨rfl, rfl, congrArg (· + 1) generation⟩

theorem countUnopened_generation (w : Work) :
    (countUnopened c w).lane.composer.generation = w.lane.composer.generation := by
  unfold countUnopened
  dsimp only
  split
  · rfl
  · split <;> rfl

theorem compose_composed (fr : Bool) (target : Field) (p : Parity) (w : Work) :
    Composed target w.lane.composer (compose c fr target p w).lane.composer := by
  have judged (m : Bool) : Composed target w.lane.composer (composeJudged c m target w).lane.composer := by
    have counted := countUnopened_generation c w
    unfold composeJudged
    split
    · exact composeFresh_composed target w
    · split
      · obtain ⟨composed, at_target, generation⟩ := composeFresh_composed target (countUnopened c w)
        exact ⟨composed, at_target, generation.trans (congrArg (· + 1) counted)⟩
      · exact ⟨rfl, rfl, congrArg (· + 1) counted⟩
  unfold compose
  dsimp only
  split
  · split
    · exact finishComposition_composed _ _ _ _ _ _ w
    · exact judged _
  · exact judged _

end Work

/-! ## The pieces of work of a line event -/

/-- A piece of work other than a lane's own composition or swap does not reach its packets. -/
theorem runTask_sameAir (s : State) (k : Task) (l : LaneId) (composer : ∀ p, k ≠ .composer l p)
    (compose : ∀ p, k ≠ .compose l p) : (s.lanes.get l).SameAir ((runTask s k).lanes.get l) := by
  have work (m : LaneId) {f : LaneCtx → Work → Work} (hf : m = l → ∀ c (w : Work), w.lane.SameAir (f c w).lane) :
      (s.lanes.get l).SameAir ((runLane m f s).lanes.get l) := by
    rw [runLane_lanes, Quad.get_set]
    split
    · rename_i same
      subst same
      exact hf rfl _ _
    · exact .refl _
  cases k with
  | reference old => rw [show runTask s (.reference old) = handReport _ s from rfl, handReport_lanes]; exact .refl _
  | tally p =>
    have lanes : (runTask s (.tally p)).lanes = s.lanes := by
      show (tallyFieldStart p s).lanes = s.lanes
      unfold tallyFieldStart
      dsimp only
      split
      · rw [handReport_lanes, State.setPort_lanes]
      · rfl
    rw [lanes]
    exact .refl _
  | pens m => exact work m fun _ => pensFieldStart_sameAir
  | hold m => exact work m fun _ => holdFieldStart_sameAir
  | composer m p =>
    show (s.lanes.get l).SameAir ((if s.composing m then _ else s).lanes.get l)
    split
    · exact work m fun same => absurd (by rw [same]) (composer p)
    · exact .refl _
  | compose m p =>
    show (s.lanes.get l).SameAir ((if s.composing m then _ else s).lanes.get l)
    split
    · exact work m fun same => absurd (by rw [same]) (compose p)
    · exact .refl _
  | onset m => exact work m fun _ c w => Lane.sameAir_of_composer (enterOnset_composer c w)
  | override m a =>
    refine work m fun _ c w => ?_
    cases a
    · show w.lane.SameAir (holdEnd .ovrLine c w).lane
      rw [holdEnd_lane]
      exact afterHoldEnd_sameAir _ _
    · show w.lane.SameAir (holdStart .ovrLine c w).lane
      rw [holdStart_lane]
      exact afterHoldStart_sameAir _

theorem composing_lineWork {s t : State} (h : LineWork s t) (l : LaneId) : t.composing l = s.composing l := by
  unfold State.composing State.windowOf
  rw [h.unit, h.windows]

/-- The pieces of work that reach a lane's packets. -/
def Task.isAir : Task → Bool
  | .composer _ _ => true
  | .compose _ _ => true
  | _ => false

/-- Reports of the reference, onsets and changes of the override do not. -/
theorem eventTasks_noAir (old : RefState) (t : Timing) (v : Levels) (y : FieldTimer) (soft before after : Bool) :
    (∀ k ∈ referenceTasks old y.refState, k.isAir = false) ∧ (∀ k ∈ onsetTasks t v y, k.isAir = false) ∧
      ∀ k ∈ overrideTasks soft before after, k.isAir = false := by
  refine ⟨fun k hk => ?_, fun k hk => ?_, fun k hk => ?_⟩
  · unfold referenceTasks at hk
    split at hk
    · cases hk
    · rw [List.mem_singleton.1 hk]; rfl
  · obtain ⟨l, -, rfl⟩ := List.mem_map.1 hk
    rfl
  · unfold overrideTasks at hk
    split at hk
    · cases hk
    · obtain ⟨l, -, rfl⟩ := List.mem_map.1 hk
      rfl

/-- The packets of lane `l` after a line event of whose pieces of work one alone, `x`, reaches them: what `x` makes of
`P`, while the filters' samples and the other work keep `P` and `Q`. -/
theorem lineEvent_air {P Q : Composer → Prop} {s : State} {l : LaneId} {x : Task} (t : Timing) (v : Levels)
    (old : RefState) (y : FieldTimer) {work : List Task} (once : work.count x = 1)
    (others : ∀ k ∈ work, k ≠ x → (∀ p, k ≠ .composer l p) ∧ ∀ p, k ≠ .compose l p)
    (own : x.isAir = true)
    (keepP : ∀ a b, Composer.SameAir a b → P a → P b) (keepQ : ∀ a b, Composer.SameAir a b → Q a → Q b)
    (here : ∀ u, LineWork (s.setTimer (y.sampled t v)) u → P (u.lanes.get l).composer →
      Q ((runTask u x).lanes.get l).composer)
    (h : P (s.lanes.get l).composer) : Q ((lineEvent t v old y work s).lanes.get l).composer := by
  generalize hs : s.setTimer (y.sampled t v) = s0 at here
  have other {R : Composer → Prop} (keep : ∀ a b, Composer.SameAir a b → R a → R b) (k : Task) (composer : ∀ p, k ≠ .composer l p)
      (compose : ∀ p, k ≠ .compose l p) (u : State) (hu : LineWork s0 u ∧ R (u.lanes.get l).composer) :
      LineWork s0 (runTask u k) ∧ R ((runTask u k).lanes.get l).composer :=
    ⟨hu.1.trans (runTask_lineWork u k), keep _ _ (runTask_sameAir u k l composer compose) hu.2⟩
  generalize after : (y.sampled t v).ovr.taken = a
  obtain ⟨reference, onset, override⟩ := eventTasks_noAir old t v y s.unit.softOverride y.ovr.taken a
  generalize tasks : referenceTasks old y.refState ++ work ++ onsetTasks t v y ++
    overrideTasks s.unit.softOverride y.ovr.taken a = ts
  have not_own {k : Task} (hk : k ∈ ts) (ne : k ≠ x) : (∀ p, k ≠ .composer l p) ∧ ∀ p, k ≠ .compose l p := by
    have no_air (free : k.isAir = false) : (∀ p, k ≠ .composer l p) ∧ ∀ p, k ≠ .compose l p :=
      ⟨fun _ e => Bool.noConfusion ((e ▸ rfl : k.isAir = true).symm.trans free),
        fun _ e => Bool.noConfusion ((e ▸ rfl : k.isAir = true).symm.trans free)⟩
    rw [← tasks, List.mem_append, List.mem_append, List.mem_append] at hk
    rcases hk with ((hk | hk) | hk) | hk
    · exact no_air (reference k hk)
    · exact others k hk ne
    · exact no_air (onset k hk)
    · exact no_air (override k hk)
  have count : (permute (Config.freeOrder s0.freeIndex) ts).count x = 1 := by
    have none {ks : List Task} (free : ∀ k ∈ ks, k.isAir = false) : ks.count x = 0 :=
      List.count_eq_zero.2 fun hx => Bool.noConfusion (own.symm.trans (free x hx))
    rw [(permute_perm _ _).count_eq, ← tasks, List.count_append, List.count_append, List.count_append, none reference,
      none onset, none override, once]
  unfold lineEvent runTasks
  dsimp only
  rw [hs, after, tasks]
  refine (foldl_once (P := fun u => LineWork s0 u ∧ P (u.lanes.get l).composer)
    (Q := fun u => LineWork s0 u ∧ Q (u.lanes.get l).composer) (freshOrder ts s0).2 count ?_ ?_ ?_ ⟨.of rfl rfl rfl rfl rfl, ?_⟩).2
  · exact fun k hk ne => other keepP k (not_own (mem_permute.1 hk) ne).1 (not_own (mem_permute.1 hk) ne).2
  · exact fun u hu => ⟨hu.1.trans (runTask_lineWork u x), here u hu.1 hu.2⟩
  · exact fun k hk ne => other keepQ k (not_own (mem_permute.1 hk) ne).1 (not_own (mem_permute.1 hk) ne).2
  · show P (s0.lanes.get l).composer
    rw [← hs]
    exact h

theorem composer_mem_fieldStartTasks {p q : Parity} {l : LaneId} (h : .composer l q ∈ fieldStartTasks p) : q = p := by
  cases p <;> cases q <;> cases l <;> first | rfl | exact absurd h (by decide)

theorem compose_not_mem_fieldStartTasks {p q : Parity} {l : LaneId} : .compose l q ∉ fieldStartTasks p := by
  cases p <;> cases q <;> cases l <;> decide

theorem compose_mem_composeTasks {p q : Parity} {l : LaneId} (h : .compose l q ∈ composeTasks p) : q = p := by
  obtain ⟨m, -, e⟩ := List.mem_map.1 h
  exact (Task.compose.inj e).2.symm

theorem composer_not_mem_composeTasks {p q : Parity} {l : LaneId} : .composer l q ∉ composeTasks p := by
  intro h
  obtain ⟨m, -, e⟩ := List.mem_map.1 h
  cases e

theorem count_compose (p : Parity) (l : LaneId) : (composeTasks p).count (.compose l p) = 1 := by
  cases p <;> cases l <;> decide

theorem count_composer (p : Parity) (l : LaneId) : (fieldStartTasks p).count (.composer l p) = 1 := by
  cases p <;> cases l <;> decide

/-- Settles O10: the swap of lane `l` is done once among the work of the field start. -/
theorem fieldStartSwapsPackets : Obligations.FieldStartSwapsPackets := by
  intro s fo v t l loaded waits composing composed
  have next : exec (.realFp fo v) s = .next (settle (lineFp t fo v s)) := by
    show answer true (takeFp fo v s) = _
    unfold takeFp
    rw [loaded]
    rfl
  refine ⟨_, next, ?_⟩
  have done : Settled (lineFp t fo v s) (settle (lineFp t fo v s)) := lineEvent_settled waits t v _ _ _
  rw [done.lanes]
  refine lineEvent_air
    (P := fun g => g.composed = true ∧ g.next = (s.lanes.get l).composer.next ∧ g.latch = (s.lanes.get l).composer.latch)
    (Q := fun g => g.active = (s.lanes.get l).composer.next ∧ g.opened = false ∧ g.missed = false ∧ g.composed = false ∧
      g.latch = (s.lanes.get l).composer.latch)
    (x := .composer l (parityOf fo)) t v _ _ (count_composer _ l) ?_ rfl ?_ ?_ ?_ ⟨composed, rfl, rfl⟩
  · intro k hk ne
    refine ⟨fun p e => ?_, fun p e => ?_⟩ <;> subst e
    · exact ne (congrArg _ (composer_mem_fieldStartTasks hk))
    · exact compose_not_mem_fieldStartTasks hk
  · intro a b same h
    unfold Composer.SameAir at same
    rw [same]
    exact h
  · intro a b same h
    unfold Composer.SameAir at same
    rw [same]
    exact h
  · intro u frame ⟨composed, next, latch⟩
    have run : runTask u (.composer l (parityOf fo)) = runLane l (composerFieldStart u.unit.fieldRepeat (parityOf fo)) u := by
      show (if u.composing l then _ else u) = _
      rw [composing_lineWork frame]
      exact if_pos composing
    rw [run, runLane_lanes, Quad.get_set, if_pos rfl]
    have swapped : (laneWork l (composerFieldStart u.unit.fieldRepeat (parityOf fo)) u).lane =
        (swap u.unit.fieldRepeat { lane := u.lanes.get l, out := [] }).lane := by
      unfold laneWork composerFieldStart
      rw [if_pos composed]
    rw [swapped]
    exact ⟨next, rfl, rfl, rfl, latch⟩

/-- R5: the LP that brings the line count to K raises COMPOSE. -/
theorem line_compose {x : FieldTimer} {t : Timing} {c : CurrentField} (field : x.field = some c)
    (early : c.n + 1 < t.threshold c) (at_k : c.n + 1 = t.k) (fresh : c.composeRaised = false) :
    x.line t = ({ x with field := some { c with n := c.n + 1, composeRaised := true } }, .compose c.parity.opposite) := by
  unfold FieldTimer.line
  rw [field]
  dsimp only
  rw [if_pos early, if_pos ⟨at_k, fresh⟩]

/-- R147: a composition is taken unless the composed mark is set. -/
theorem takeCompose_composed (fr : Bool) (p : Parity) (c : LaneCtx) (w : Work) :
    (takeCompose fr p c w).lane.composer.composed = true ∧
      (w.lane.composer.composed = false → Composed (c.now + 1) w.lane.composer (takeCompose fr p c w).lane.composer) ∧
      (w.lane.composer.composed = true → takeCompose fr p c w = w) := by
  have taken := compose_composed c fr (c.now + 1) p w
  unfold takeCompose
  cases composed : w.lane.composer.composed with
  | false => exact ⟨taken.composed, fun _ => taken, nofun⟩
  | true => exact ⟨composed, nofun, fun _ => rfl⟩

/-- Settles O11: the composition of lane `l` is done once among the work of the event. -/
theorem composeAtLineK : Obligations.ComposeAtLineK := by
  intro s v t c l loaded waits field early at_k fresh composing
  have next : exec (.realLp v) s = .next (settle (lineOther t v s.timer.refState s.timer.lpTaken s)) := by
    show answer true (takeLp v s) = _
    unfold takeLp
    rw [loaded]
    rfl
  refine ⟨_, next, ?_⟩
  have done : Settled (lineOther t v s.timer.refState s.timer.lpTaken s)
      (settle (lineOther t v s.timer.refState s.timer.lpTaken s)) := lineEvent_settled waits t v _ _ _
  rw [done.lanes]
  unfold lineOther
  rw [line_compose (x := s.timer.lpTaken) field early at_k fresh]
  refine lineEvent_air
    (P := fun g => g.composed = (s.lanes.get l).composer.composed ∧ g.generation = (s.lanes.get l).composer.generation ∧
      g.next = (s.lanes.get l).composer.next)
    (Q := fun g => g.composed = true ∧
      ((s.lanes.get l).composer.composed = false →
        g.next.target = s.timer.f + 1 ∧ g.generation = (s.lanes.get l).composer.generation + 1) ∧
      ((s.lanes.get l).composer.composed = true → g.next = (s.lanes.get l).composer.next))
    (x := .compose l c.parity.opposite) t v _ _ (count_compose _ l) ?_ rfl ?_ ?_ ?_ ⟨rfl, rfl, rfl⟩
  · intro k hk ne
    refine ⟨fun p e => ?_, fun p e => ?_⟩ <;> subst e
    · exact composer_not_mem_composeTasks hk
    · exact ne (congrArg _ (compose_mem_composeTasks hk))
  · intro a b same h
    unfold Composer.SameAir at same
    rw [same]
    exact h
  · intro a b same h
    unfold Composer.SameAir at same
    rw [same]
    exact h
  · intro u frame ⟨composed, generation, next⟩
    have run : runTask u (.compose l c.parity.opposite) =
        runLane l (takeCompose u.unit.fieldRepeat c.parity.opposite) u := by
      show (if u.composing l then _ else u) = _
      rw [composing_lineWork frame]
      exact if_pos composing
    obtain ⟨done, fresh, again⟩ := takeCompose_composed u.unit.fieldRepeat c.parity.opposite (u.laneCtx l)
      { lane := u.lanes.get l, out := [] }
    rw [run, runLane_lanes, Quad.get_set, if_pos rfl]
    refine ⟨done, fun old => ?_, fun old => ?_⟩
    · obtain ⟨-, target, counted⟩ := fresh (composed.trans old)
      have now : (u.laneCtx l).now = s.timer.f := by
        show u.timer.f = s.timer.f
        rw [frame.timer]
        rfl
      exact ⟨target.trans (congrArg (· + 1) now), counted.trans (congrArg (· + 1) generation)⟩
    · unfold laneWork
      rw [again (composed.trans old)]
      exact next

end Sys2Proof.Machine
end

section
/-!
O12, O32, O52, O54: release, the giving of tags, the measurement of latency and the fresh composition.
-/
namespace Sys2Proof.Machine

/-! ## Release (R94) -/

/-- Of the first `n` entries those are split off that lead up to the first that is not due. -/
theorem splitDue_spec (now : Field) (n : Nat) (q : List Tok) :
    q = (splitDue now n q).1 ++ (splitDue now n q).2 ∧ (∀ t ∈ (splitDue now n q).1, notLater t.due now = true) ∧
      ((splitDue now n q).1.length = n ∨ ∀ t ∈ (splitDue now n q).2.head?, notLater t.due now = false) := by
  induction n generalizing q with
  | zero => unfold splitDue; exact ⟨rfl, nofun, .inl rfl⟩
  | succ n ih =>
    cases q with
    | nil => exact ⟨rfl, nofun, .inr nofun⟩
    | cons t ts =>
      obtain ⟨split, due, stop⟩ := ih ts
      unfold splitDue
      split
      · rename_i now_due
        refine ⟨congrArg (t :: ·) split, fun u hu => ?_, stop.imp_left (congrArg (· + 1))⟩
        rcases List.mem_cons.1 hu with rfl | hu
        · exact now_due
        · exact due u hu
      · rename_i later
        refine ⟨rfl, nofun, .inr fun u hu => ?_⟩
        rw [← Option.some.inj hu]
        exact Bool.not_eq_true _ ▸ later

theorem release_other {c : LaneCtx} {w : Work} (h : w.lane.hold.state ≠ .run) : release c w = w := if_neg h

/-- Settles O12. -/
theorem releaseMovesDueHeads : Obligations.ReleaseMovesDueHeads := by
  intro c w
  refine ⟨release_other, fun run room => ?_⟩
  obtain ⟨split, due, stop⟩ := splitDue_spec c.now (Config.emissionCap - w.lane.composer.emission.length) w.lane.hold.queue
  have few := (splitDue_length c.now (Config.emissionCap - w.lane.composer.emission.length) w.lane.hold.queue).1
  generalize hm : splitDue c.now (Config.emissionCap - w.lane.composer.emission.length) w.lane.hold.queue = m at *
  have released : release c w = _ := if_pos run
  have cap : Config.emissionCap = 48 := rfl
  rw [released, hm]
  refine ⟨m.1, split, rfl, due, ?_, ?_, rfl, rfl, rfl, rfl, rfl⟩
  · show (w.lane.composer.emission ++ m.1.map tokenEntry).length ≤ 48
    rw [List.length_append, List.length_map]
    omega
  · refine stop.imp_left fun full => ?_
    show (w.lane.composer.emission ++ m.1.map tokenEntry).length = 48
    rw [List.length_append, List.length_map]
    omega

/-! ## Tags (R90) -/

/-- `n` values at most are passed over, each present; when fewer are, the value given is not. -/
theorem freeTag_spec (present : List Half) (n : Nat) (t : Half) :
    ∃ k, k ≤ n ∧ freeTag present n t = t + BitVec.ofNat 16 k ∧ (∀ i < k, t + BitVec.ofNat 16 i ∈ present) ∧
      (k < n → freeTag present n t ∉ present) := by
  induction n generalizing t with
  | zero => exact ⟨0, Nat.le_refl 0, (BitVec.add_zero t).symm, nofun, nofun⟩
  | succ n ih =>
    unfold freeTag
    split
    · rename_i taken
      obtain ⟨k, few, given, passed, free⟩ := ih (t + 1)
      have shift (i : Nat) : t + 1 + BitVec.ofNat 16 i = t + BitVec.ofNat 16 (i + 1) := by
        rw [BitVec.add_assoc, Nat.add_comm i 1, BitVec.ofNat_add]
        rfl
      refine ⟨k + 1, Nat.succ_le_succ few, given.trans (shift k), fun i hi => ?_, fun h => free (Nat.lt_of_succ_lt_succ h)⟩
      cases i with
      | zero => simpa using List.contains_iff_mem.1 taken
      | succ i => rw [← shift]; exact passed i (Nat.lt_of_succ_lt_succ hi)
    · rename_i free
      exact ⟨0, Nat.zero_le _, (BitVec.add_zero t).symm, nofun, fun _ => fun mem => free (List.contains_iff_mem.2 mem)⟩

/-- Fewer than 65536 tags do not hold one more consecutive values than there are. -/
theorem not_all_present {present : List Half} (few : present.length < 65536) (t : Half) :
    ¬ ∀ i < present.length + 1, t + BitVec.ofNat 16 i ∈ present := by
  intro all
  have distinct : ((List.range (present.length + 1)).map fun i => t + BitVec.ofNat 16 i).Nodup := by
    refine List.nodup_range.map_on fun i hi j hj same => ?_
    have hi := List.mem_range.1 hi
    have hj := List.mem_range.1 hj
    have := congrArg BitVec.toNat (BitVec.add_right_inj t |>.1 same)
    rw [BitVec.toNat_ofNat, BitVec.toNat_ofNat, Nat.mod_eq_of_lt (by omega), Nat.mod_eq_of_lt (by omega)] at this
    exact this
  have within : ((List.range (present.length + 1)).map fun i => t + BitVec.ofNat 16 i) ⊆ present := by
    intro u hu
    obtain ⟨i, hi, rfl⟩ := List.mem_map.1 hu
    exact all i (List.mem_range.1 hi)
  have bound := (distinct.subperm within).length_le
  rw [List.length_map, List.length_range] at bound
  omega

/-- Settles O32, by the pigeonhole principle. -/
theorem tagGivenIsFree : Obligations.TagGivenIsFree := by
  intro w few
  obtain ⟨k, bound, given, passed, free⟩ :=
    freeTag_spec w.lane.presentTags w.lane.presentTags.length w.lane.hold.tagCounter
  have tag : (giveTag w).2 = w.lane.hold.tagCounter + BitVec.ofNat 16 k := given
  have distance : ((giveTag w).2 - w.lane.hold.tagCounter).toNat = k := by
    rw [tag, BitVec.add_comm, BitVec.add_sub_cancel, BitVec.toNat_ofNat, Nat.mod_eq_of_lt (by omega)]
  refine ⟨fun mem => ?_, rfl, fun n hn => passed n (distance ▸ hn), rfl, rfl⟩
  by_cases less : k < w.lane.presentTags.length
  · exact free less mem
  · obtain rfl : k = w.lane.presentTags.length := by omega
    refine not_all_present few w.lane.hold.tagCounter fun i hi => ?_
    rcases Nat.lt_succ_iff_lt_or_eq.1 hi with below | rfl
    · exact passed i below
    · exact tag ▸ mem

/-! ## Measurement (R79) -/

theorem stepEstimate_eq (s d l m : Nat) : (stepEstimate s d l m : Int) =
    max 0 (min (d : Int) (l + max (-(s : Int)) (min (s : Int) (m - l)))) := by
  unfold stepEstimate
  dsimp only
  split_ifs <;> omega

/-- Settles O52. -/
theorem measurementStepsTheEstimate : Obligations.MeasurementStepsTheEstimate := by
  intro c tag a o w soft timed
  have measured : measure c tag a o w = w.setTracker { w.lane.tracker with
      l := stepEstimate w.lane.tracker.s w.lane.tracker.d w.lane.tracker.l (since o a) } := by
    unfold measure
    dsimp only
    rw [soft]
    rfl
  have estimate := stepEstimate_eq w.lane.tracker.s w.lane.tracker.d w.lane.tracker.l (since o a)
  dsimp only
  rw [measured]
  refine ⟨estimate, ?_, ?_, rfl, rfl⟩
  · show (stepEstimate _ _ _ _ : Int) - _ ≤ _
    rw [estimate]
    omega
  · show _ - (stepEstimate _ _ _ _ : Int) ≤ _
    rw [estimate]
    omega

/-! ## Fresh compositions (R143) -/

/-- What placing cells for entries keeps: the erase debt, the pending CLEAR and the budget. -/
structure Composer.SameBudget (x y : Composer) : Prop where
  eraseDebt : y.eraseDebt = x.eraseDebt
  pendingClear : y.pendingClear = x.pendingClear
  c : y.c = x.c

theorem Composer.SameBudget.refl (x : Composer) : x.SameBudget x := ⟨rfl, rfl, rfl⟩

theorem Composer.SameBudget.trans {x y z : Composer} (h : x.SameBudget y) (k : y.SameBudget z) : x.SameBudget z :=
  ⟨k.eraseDebt.trans h.eraseDebt, k.pendingClear.trans h.pendingClear, k.c.trans h.c⟩

theorem nextCell_sameBudget (x : Composer) (e : Entry) (rest : List Entry) :
    x.SameBudget (nextCell x e rest).composer := by
  unfold nextCell
  dsimp only
  split
  · split <;> exact ⟨rfl, rfl, rfl⟩
  · split <;> exact ⟨rfl, rfl, rfl⟩

/-- R143 step 4: what `n` cells' room brings: `n` cells, or as many as empty the queue; each token placed whole goes
from QUEUED to EMITTED. -/
structure EntriesPlaced (n : Nat) (g h : Composing) (more : List Cell) : Prop where
  cells : h.cells = g.cells ++ more
  few : more.length ≤ n
  full : more.length = n ∨ h.composer.emission = []
  budget : g.composer.SameBudget h.composer
  counters : h.counters = { g.counters with queued := h.counters.queued, emitted := h.counters.emitted }
  places : h.counters.queued + h.counters.emitted = g.counters.queued + g.counters.emitted

theorem placeEntries_placed (n : Nat) (g : Composing) : ∃ more, EntriesPlaced n g (placeEntries n g) more := by
  induction n generalizing g with
  | zero => exact ⟨[], by simp [placeEntries], Nat.le_refl 0, .inl rfl, .refl _, rfl, rfl⟩
  | succ n ih =>
    unfold placeEntries
    split
    · rename_i empty
      exact ⟨[], by simp, Nat.zero_le _, .inr empty, .refl _, rfl, rfl⟩
    · rename_i e rest _
      dsimp only
      generalize cell : nextCell g.composer e rest = p
      have budget : g.composer.SameBudget p.composer := cell ▸ nextCell_sameBudget g.composer e rest
      generalize next : Composing.mk p.composer
        (if p.emitted then { g.counters with queued := g.counters.queued - 1, emitted := g.counters.emitted + 1 }
          else g.counters) (g.cells ++ [p.cell]) = g'
      obtain ⟨more, h⟩ := ih g'
      have counters : g'.counters = { g.counters with queued := g'.counters.queued, emitted := g'.counters.emitted } ∧
          g'.counters.queued + g'.counters.emitted = g.counters.queued + g.counters.emitted := by
        rw [← next]
        split
        · refine ⟨rfl, ?_⟩
          show g.counters.queued - 1 + (g.counters.emitted + 1) = _
          bv_omega
        · exact ⟨rfl, rfl⟩
      refine ⟨p.cell :: more, ?_, Nat.succ_le_succ h.few, h.full.imp_left (congrArg (· + 1)), ?_, ?_, ?_⟩
      · rw [h.cells, ← next]
        simp
      · refine Composer.SameBudget.trans ?_ h.budget
        rw [← next]
        exact budget
      · rw [h.counters, counters.1]
      · exact h.places.trans counters.2

theorem placeClear_eq {x : Composer} (h : 1 ≤ x.c) (k : Counters) :
    placeClear { composer := x, counters := k, cells := [] } =
      { composer := { x with pendingClear := false }, counters := k, cells := if x.pendingClear then [.clear] else [] } := by
  unfold placeClear
  dsimp only
  cases pending : x.pendingClear with
  | false =>
    rw [if_neg (by simp)]
    have same : { x with pendingClear := false } = x := by rw [← pending]
    rw [same]
    rfl
  | true => rw [if_pos (by simpa using h)]; rfl

/-- Settles O54. -/
theorem freshCompositionPlacesCells : Obligations.FreshCompositionPlacesCells := by
  intro state x k budget
  have clear := placeClear_eq budget k
  dsimp only
  generalize first : (if x.pendingClear then [.clear] else [] : List Cell) = cs at *
  have cs_few : cs.length ≤ 1 := by rw [← first]; split <;> decide
  unfold freshCells
  dsimp only
  rw [clear]
  by_cases run : state = .run
  · rw [if_pos run]
    generalize erased : placeErases { composer := { x with pendingClear := false }, counters := k, cells := cs } = g
    have composer : g.composer = { x with pendingClear := false, eraseDebt := x.eraseDebt - min x.eraseDebt (x.c - cs.length) } := by
      rw [← erased]; rfl
    have counters : g.counters =
        { k with erasedCells := k.erasedCells + BitVec.ofNat 32 (min x.eraseDebt (x.c - cs.length)) } := by
      rw [← erased]; rfl
    have cells : g.cells = cs ++ List.replicate (min x.eraseDebt (x.c - cs.length)) .erase := by
      rw [← erased]; rfl
    have n_debt : min x.eraseDebt (x.c - cs.length) ≤ x.eraseDebt := Nat.min_le_left _ _
    have n_room : min x.eraseDebt (x.c - cs.length) ≤ x.c - cs.length := Nat.min_le_right _ _
    generalize min x.eraseDebt (x.c - cs.length) = n at *
    have length : g.cells.length = cs.length + n := by rw [cells, List.length_append, List.length_replicate]
    have eraseDebt : g.composer.eraseDebt = x.eraseDebt - n := by rw [composer]
    have c : g.composer.c = x.c := by rw [composer]
    split
    · rename_i paid
      obtain ⟨more, h⟩ := placeEntries_placed (g.composer.c - g.cells.length) g
      generalize placeEntries (g.composer.c - g.cells.length) g = r at h
      have r_length : r.cells.length = g.cells.length + more.length := by rw [h.cells, List.length_append]
      have few := h.few
      have full := h.full
      refine ⟨by omega, h.budget.pendingClear.trans (by rw [composer]), h.budget.c.trans c, fun other => absurd run other,
        fun _ => ⟨more, ?_, h.budget.eraseDebt.trans eraseDebt, ?_, ?_, fun unpaid => by omega, fun _ => ?_⟩⟩
      · rw [h.cells, cells]
      · rw [h.counters, counters]
      · exact h.places.trans (by rw [counters])
      · exact full.imp_left fun all => by omega
    · rename_i unpaid
      refine ⟨by omega, by rw [composer], c, fun other => absurd run other,
        fun _ => ⟨[], ?_, eraseDebt, ?_, ?_, fun _ => ⟨rfl, by rw [composer], by rw [composer]⟩, fun paid => by omega⟩⟩
      · rw [cells, List.append_nil]
      · rw [counters]
      · rw [counters]
  · rw [if_neg run]
    exact ⟨cs_few.trans budget, rfl, rfl, fun _ => ⟨rfl, rfl, rfl⟩, fun h => absurd h run⟩

end Sys2Proof.Machine
end

section
/-!
O13 to O18: the arbiter, and the arrival of accesses: one that waits for a BUSY Port M, one that a FREE Port M is
granted to at once, and one that is answered inside the part.
-/
namespace Sys2Proof.Machine

/-! ## The arbiter (R27 to R30) -/

theorem arbitrate_portV {s : State} {x : Access} (free : s.path.portM = none) (waits : s.path.v.waiting? = some x) :
    arbitrate s = grantPort .v x s := by
  unfold arbitrate
  rw [free, waits]
  rfl

theorem arbitrate_urgent {s : State} {q : Request} (free : s.path.portM = none) (noV : s.path.v.waiting? = none)
    (front : s.frontEntry = some q) (urgent : s.urgent q = true) : arbitrate s = grantEngine q s := by
  unfold arbitrate
  rw [free, noV, front]
  simp [urgent]

/-- R27 step 3: Port H waits alone. -/
theorem arbitrate_portH_alone {s : State} {x : Access} (free : s.path.portM = none) (noV : s.path.v.waiting? = none)
    (none : s.frontEntry = none) (waits : s.path.h.waiting? = some x) :
    arbitrate s = grantPort .h x (s.setServed .portH) := by
  unfold arbitrate arbitrateTurn
  rw [free, noV, none, waits]
  rfl

/-- The engine waits alone: whether the entry is urgent or not, it is granted. -/
theorem arbitrate_engine_alone {s : State} {q : Request} (free : s.path.portM = none) (noV : s.path.v.waiting? = none)
    (noH : s.path.h.waiting? = none) (front : s.frontEntry = some q) :
    (arbitrate s).path.portM = some (engineAccess q) := by
  unfold arbitrate arbitrateTurn
  rw [free, noV, front, noH]
  dsimp only
  split
  · rename_i busy; cases busy
  · split <;> rfl

theorem grantPort_access (p : Port) (x : Access) (s : State) :
    ∃ m, (grantPort p x s).path.portM = some m ∧ m.owner = .port p ∧ m.addr = x.addr := ⟨_, rfl, rfl, rfl⟩

/-- Settles O13. -/
theorem arbiterOrder : Obligations.ArbiterOrder := by
  intro s
  refine ⟨fun m busy => arbitrate_busy (by rw [busy]; rfl), fun free => ⟨fun x waits => ?_, fun noV q front urgent => ?_,
    fun noV noH q front => arbitrate_engine_alone free noV noH front, fun noV none x waits => ?_,
    fun noV noH none => arbitrate_quiet fun _ => ⟨noH, noV, none⟩⟩⟩
  · rw [arbitrate_portV free waits]
    exact grantPort_access _ _ _
  · rw [arbitrate_urgent free noV front urgent]
    exact ⟨rfl, rfl, rfl⟩
  · rw [arbitrate_portH_alone free noV none waits]
    exact grantPort_access _ _ _

/-! ## A FREE Port M granted at once -/

/-- The last served after a grant to a port (R28). -/
def servedAfter (p : Port) (s : State) : Served := match p with | .h => .portH | .v => s.path.lastServed

/-- The access that a grant puts on Port M. -/
def portAccess (p : Port) (x : Access) (ws : List Taken) : MAccess :=
  { owner := .port p, addr := x.addr, isWrite := writes x.xfer, words := ws, orphan := false }

/-- The part with Port M granted to an access that has just arrived, none of its words taken yet. -/
def grantedTo (p : Port) (x : Access) (s : State) : State :=
  ((s.setServed (servedAfter p s)).setPort p { s.portUnit p with state := .inFlight }).setPortM (some (portAccess p x []))

/-- The part after the words of that access. -/
def afterGrant (p : Port) (x : Access) (s : State) : State :=
  (takeAccess p x (grantedTo p x s)).1.setPortM (some (portAccess p x (takeAccess p x (grantedTo p x s)).2))

theorem setPort_setPort (s : State) (p : Port) (u v : PortUnit) : (s.setPort p u).setPort p v = s.setPort p v := by
  cases p <;> rfl

theorem setServed_setPort (s : State) (p : Port) (u : PortUnit) (x : Served) :
    (s.setPort p u).setServed x = (s.setServed x).setPort p u := by cases p <;> rfl

/-- A grant to the access that a port has just received. -/
theorem grantPort_arrived (p : Port) (x : Access) (s : State) :
    grantPort p x ((s.setPort p { s.portUnit p with state := .waiting x }).setServed (servedAfter p s)) =
      afterGrant p x s := by
  have granted : (((s.setPort p { s.portUnit p with state := .waiting x }).setServed (servedAfter p s)).setPort p
      { ((s.setPort p { s.portUnit p with state := .waiting x }).setServed (servedAfter p s)).portUnit p with
        state := .inFlight }).setPortM
      (some { owner := .port p, addr := x.addr, isWrite := writes x.xfer, words := [], orphan := false }) =
      grantedTo p x s := by
    cases p <;> rfl
  unfold grantPort
  dsimp only
  rw [granted]
  rfl

/-- R16, R27: an access that needs memory and finds Port M FREE and nobody waiting is granted it at once. -/
theorem receive_granted {p : Port} {x : Access} {s : State} (idle : (s.portUnit p).state = .idle)
    (free : s.path.portM = none) (waits : s.NoneWaits) (running : s.unit.partState ≠ .stopping)
    (needs : accessNeedsMemory p x s = true) (after : (afterGrant p x s).unit.partState ≠ .stopping) :
    receive p x s = afterGrant p x s := by
  obtain ⟨noH, noV, none⟩ := waits free
  generalize arrived : s.setPort p { s.portUnit p with state := .waiting x } = u
  have u_free : u.path.portM = Option.none := by rw [← arrived, State.setPort_path_portM, free]
  have u_running : u.unit.partState ≠ .stopping := by rw [← arrived, State.setPort_unit]; exact running
  have u_none : u.frontEntry = Option.none := frontEntry_empty (by rw [← arrived, State.setPort_engine]; exact none)
  have granted : arbitrate u = afterGrant p x s := by
    rw [← grantPort_arrived p x s, arrived]
    cases p with
    | h =>
      refine arbitrate_portH_alone u_free ?_ u_none (by rw [← arrived]; rfl)
      rw [← arrived]
      exact noV
    | v =>
      have served : u.setServed (servedAfter .v s) = u := by rw [← arrived]; rfl
      rw [served]
      exact arbitrate_portV u_free (by rw [← arrived]; rfl)
  unfold receive settle
  rw [if_pos idle, if_pos needs, arrived, finishStopping_of_ne u_running, granted, finishStopping_of_ne after]

theorem grantedTo_region (p : Port) (x : Access) (s : State) (a : Addr) :
    (grantedTo p x s).regionOf a = s.regionOf a := by cases p <;> rfl

/-! ## Words -/

theorem wordAddr_zero (a : Addr) : wordAddr a 0 = a := BitVec.add_zero a

theorem wordAddr_succ (a : Addr) (i : Nat) : wordAddr a (i + 1) = wordAddr (a + 4) i := by
  unfold wordAddr
  rw [Nat.mul_succ, Nat.add_comm, BitVec.ofNat_add, BitVec.add_assoc]
  rfl

/-- R18: words outside every window go to memory as they are. -/
theorem takeWrites_outside {p : Port} {s : State} (data : List Word) (a : Addr)
    (outside : ∀ i < data.length, s.regionOf (wordAddr a i) = .outside) :
    takeWrites p a data s = (s, data.map .store) := by
  induction data generalizing a with
  | nil => rfl
  | cons d ds ih =>
    have first : s.regionOf a = .outside := by simpa [wordAddr_zero] using outside 0 (Nat.succ_pos _)
    have one : takeWrite p a d s = (s, .store d) := by
      unfold takeWrite State.writeRefused passWrite
      rw [first]
      cases p <;> rfl
    have rest := ih (a + 4) fun i hi => wordAddr_succ a i ▸ outside (i + 1) (Nat.succ_lt_succ hi)
    unfold takeWrites
    dsimp only
    rw [one, rest]
    rfl

theorem takeReads_outside {p : Port} {s : State} (n : Nat) (a : Addr)
    (outside : ∀ i < n, s.regionOf (wordAddr a i) = .outside) :
    takeReads p n a s = (s, List.replicate n .load) := by
  induction n generalizing a with
  | zero => rfl
  | succ n ih =>
    have first : s.regionOf a = .outside := by simpa [wordAddr_zero] using outside 0 (Nat.succ_pos _)
    have one : takeRead p a s = (s, .load) := by
      unfold takeRead
      rw [first]
    have rest := ih (a + 4) fun i hi => wordAddr_succ a i ▸ outside (i + 1) (Nat.succ_lt_succ hi)
    unfold takeReads
    dsimp only
    rw [one, rest]
    rfl

/-- R19, R166: the start word is in the boot window. -/
theorem startWritten_region {p : Port} {x : Access} {s : State} (h : startWritten p x s = true) :
    ∃ i < x.xfer.count, ∃ k, s.regionOf (wordAddr x.addr i) = .boot k := by
  unfold startWritten at h
  split at h
  · rename_i data write setup
    obtain ⟨i, hi, at_start⟩ := List.any_eq_true.1 h
    rw [Bool.and_eq_true, beq_iff_eq] at at_start
    refine ⟨i, by rw [write]; exact List.mem_range.1 hi, 0, ?_⟩
    unfold State.regionOf
    rw [setup, at_start.1]
    dsimp only
    rw [if_pos ⟨Nat.le_refl _, Nat.lt_add_of_pos_right (by decide)⟩, Nat.sub_self]
  · cases h

/-- The words of an access that lies outside every window. -/
theorem takeAccess_outside {p : Port} {x : Access} {s : State}
    (outside : ∀ i < x.xfer.count, s.regionOf (wordAddr x.addr i) = .outside) :
    takeAccess p x s =
      (s, match x.xfer with | .write data => data.map .store | .read n => List.replicate n .load) := by
  have no_start : startWritten p x s = false := by
    by_contra start
    obtain ⟨i, hi, k, boot⟩ := startWritten_region (Bool.not_eq_false _ ▸ start)
    exact Region.noConfusion ((outside i hi).symm.trans boot)
  unfold takeAccess
  dsimp only
  rw [no_start]
  obtain ⟨addr, xfer⟩ := x
  cases xfer with
  | write data =>
    dsimp only
    rw [takeWrites_outside data addr outside]
    rfl
  | read n =>
    dsimp only
    rw [takeReads_outside n addr outside]
    rfl

theorem Access.wf_count {x : Access} (h : x.wf = true) : 1 ≤ x.xfer.count := by
  unfold Access.wf burstOk at h
  simp only [Bool.and_eq_true, decide_eq_true_iff] at h
  exact h.1.1.1

theorem needsMemory_outside {p : Port} {w : Bool} {a : Addr} {s : State} (h : s.regionOf a = .outside) :
    s.needsMemory p w a = true := by
  unfold State.needsMemory State.writeRefused State.readInside
  rw [h]
  cases w <;> rfl

theorem accessNeedsMemory_of {p : Port} {x : Access} {s : State} {i : Nat} (hi : i < x.xfer.count)
    (h : s.needsMemory p (writes x.xfer) (wordAddr x.addr i) = true) : accessNeedsMemory p x s = true :=
  List.any_eq_true.2 ⟨i, List.mem_range.2 hi, h⟩

theorem exec_upstreamAccess {p : Port} {x : Access} (h : x.wf = true) (s : State) :
    exec (.upstreamAccess p x) s = .next (receive p x s) := by
  show answer x.wf _ = _
  rw [h]
  rfl

/-- Settles O14. -/
theorem upstreamAccessWaitsOrIsGranted : Obligations.UpstreamAccessWaitsOrIsGranted := by
  constructor
  · intro s p x m wf idle busy running needs
    rw [exec_upstreamAccess wf]
    unfold receive
    rw [if_pos idle, if_pos needs, settle_busy]
    · rw [State.setPort_path_portM, busy]
      rfl
    · rw [State.setPort_unit]
      exact running
  · intro s p x wf idle free waits running outside
    have count := Access.wf_count wf
    have taken := takeAccess_outside (p := p) (s := grantedTo p x s) (x := x) fun i hi =>
      (grantedTo_region p x s _).trans (outside i hi)
    have unit : (grantedTo p x s).unit = s.unit := by cases p <;> rfl
    have after : afterGrant p x s = (grantedTo p x s).setPortM (some (portAccess p x
        (match x.xfer with | .write data => data.map .store | .read n => List.replicate n .load))) := by
      unfold afterGrant
      rw [taken]
    have needs := accessNeedsMemory_of (p := p) count
      (needsMemory_outside (p := p) (w := writes x.xfer) (outside 0 count))
    refine ⟨_, exec_upstreamAccess wf s, ?_⟩
    rw [receive_granted idle free waits running needs (by rw [after, State.setPortM_unit, unit]; exact running), after]
    refine ⟨?_, ?_, ?_, ?_, ?_⟩
    · show some (portAccess p x _) = _
      unfold portAccess writes
      cases x.xfer <;> rfl
    · rw [State.setPortM_portUnit]
      unfold grantedTo
      rw [State.setPortM_portUnit, State.setPort_portUnit]
    · cases p <;> rfl
    · cases p <;> rfl
    · cases p <;> exact ⟨rfl, rfl, rfl, rfl, rfl, rfl⟩

end Sys2Proof.Machine
end

section
/-!
O15 and O16: accesses that need no memory. The port is answered inside the part, after the words are taken.
-/
namespace Sys2Proof.Machine

/-! ## Answered inside the part (R16, R24) -/

/-- The part after the words of an access that needs no memory, its response given. -/
def answeredInside (p : Port) (x : Access) (s : State) : State :=
  respond p (internalResponse x (takeAccess p x s).2).code (internalResponse x (takeAccess p x s).2).data
    (takeAccess p x s).1

theorem receive_inside {p : Port} {x : Access} {s : State} (idle : (s.portUnit p).state = .idle)
    (inside : ∀ i < x.xfer.count, s.needsMemory p (writes x.xfer) (wordAddr x.addr i) = false) :
    receive p x s = settle (answeredInside p x s) := by
  have no_memory : accessNeedsMemory p x s = false := by
    by_contra needs
    obtain ⟨i, hi, need⟩ := List.any_eq_true.1 (Bool.not_eq_false _ ▸ needs)
    exact Bool.false_ne_true ((inside i (List.mem_range.1 hi)).symm.trans need)
  unfold receive
  rw [if_pos idle, if_neg (ne_true_of_eq_false no_memory)]
  rfl

theorem startWritten_running {p : Port} {x : Access} {s : State} (running : s.unit.partState = .running) :
    startWritten p x s = false := by
  unfold startWritten
  split
  · rename_i setup
    cases running.symm.trans setup
  · rfl

theorem takeAccess_write {p : Port} {a : Addr} {data : List Word} {s : State}
    (running : s.unit.partState = .running) :
    takeAccess p { addr := a, xfer := .write data } s = takeWrites p a data s := by
  unfold takeAccess
  rw [startWritten_running running]
  rfl

theorem takeAccess_read {p : Port} {a : Addr} {n : Nat} {s : State} (running : s.unit.partState = .running) :
    takeAccess p { addr := a, xfer := .read n } s = takeReads p n a s := by
  unfold takeAccess
  rw [startWritten_running running]
  rfl

/-! ## A Port V write into windows (R22, R25) -/

/-- Port V's tally replaced. -/
def State.setTallyV (s : State) (y : Tally) : State := s.setPort .v { s.path.v with tally := y }

/-- R25: one refused word of Port V. -/
theorem takeWrite_refused {a : Addr} {w : Window} {s : State} (inWindow : s.regionOf a = .window w) (d : Word) :
    ∃ y : Tally, takeWrite .v a d s = (s.setTallyV y, .masked) ∧ y.count = s.path.v.tally.count + 1 ∧
      y.first = if s.path.v.tally.count = 0 then a else s.path.v.tally.first := by
  have refused : s.writeRefused .v a = true := by
    unfold State.writeRefused
    rw [inWindow]
  have unit : s.portUnit .v = s.path.v := rfl
  unfold takeWrite refuseWord
  rw [if_pos refused, unit]
  by_cases empty : s.path.v.tally.count = 0
  · exact ⟨_, rfl, by simp [empty], by simp [empty]⟩
  · exact ⟨_, rfl, by simp [empty], by simp [empty]⟩

/-- R25: the words of a Port V write that fall in windows: each is masked, and counted after the first. -/
theorem takeWrites_refused (data : List Word) (a : Addr) (s : State)
    (inWindows : ∀ i < data.length, ∃ w, s.regionOf (wordAddr a i) = .window w) :
    ∃ y : Tally, takeWrites .v a data s = (s.setTallyV y, List.replicate data.length .masked) ∧
      y.count = s.path.v.tally.count + data.length ∧
      y.first = if s.path.v.tally.count = 0 ∧ data ≠ [] then a else s.path.v.tally.first := by
  induction data generalizing a s with
  | nil => exact ⟨s.path.v.tally, rfl, rfl, (if_neg fun h => h.2 rfl).symm⟩
  | cons d ds ih =>
    obtain ⟨w, inWindow⟩ := inWindows 0 (Nat.succ_pos _)
    rw [wordAddr_zero] at inWindow
    obtain ⟨y, one, y_count, y_first⟩ := takeWrite_refused inWindow d
    obtain ⟨z, rest, z_count, z_first⟩ := ih (a + 4) (s.setTallyV y) fun i hi =>
      wordAddr_succ a i ▸ inWindows (i + 1) (Nat.succ_lt_succ hi)
    have counted : (s.setTallyV y).path.v.tally = y := rfl
    rw [counted] at z_count z_first
    refine ⟨z, ?_, ?_, ?_⟩
    · unfold takeWrites
      dsimp only
      rw [one, rest]
      rfl
    · rw [z_count, y_count, List.length_cons]
      omega
    · have not_first : ¬ (y.count = 0 ∧ ds ≠ []) := fun h => by omega
      rw [z_first, if_neg not_first, y_first]
      simp

theorem needsMemory_portV {a : Addr} {w : Window} {s : State} (inWindow : s.regionOf a = .window w) :
    s.needsMemory .v true a = false := by
  unfold State.needsMemory State.writeRefused
  rw [inWindow]
  rfl

/-- Settles O15. -/
theorem portVWriteIntoWindowsIsRefused : Obligations.PortVWriteIntoWindowsIsRefused := by
  intro s x data wf write idle waits running inWindows
  obtain ⟨addr, xfer⟩ := x
  subst write
  have count : 1 ≤ data.length := Access.wf_count wf
  have nonempty : data ≠ [] := List.ne_nil_of_length_pos count
  obtain ⟨y, taken, y_count, y_first⟩ := takeWrites_refused data addr s inWindows
  have masked : anyMasked (List.replicate data.length .masked) = true :=
    List.any_eq_true.2 ⟨.masked, List.mem_replicate.2 ⟨(Nat.pos_iff_ne_zero.1 count), rfl⟩, rfl⟩
  have answered : answeredInside .v { addr := addr, xfer := .write data } s =
      respond .v .refused [] (s.setTallyV y) := by
    unfold answeredInside internalResponse
    rw [takeAccess_write running, taken]
    dsimp only [writes]
    rw [masked]
    rfl
  have inside : ∀ i < data.length, s.needsMemory .v true (wordAddr addr i) = false := fun i hi =>
    (inWindows i hi).elim fun w inWindow => needsMemory_portV inWindow
  refine ⟨respond .v .refused [] (s.setTallyV y), ?_, rfl, rfl, y_count, ?_, rfl, rfl, rfl, rfl, rfl, rfl, rfl, rfl, rfl⟩
  · rw [exec_upstreamAccess wf, receive_inside (p := .v) (x := { addr := addr, xfer := .write data }) idle inside, answered, settle_quiet]
    · exact fun free => (waits free).imp_right fun h => ⟨rfl, h.2⟩
    · exact fun stopping => PartState.noConfusion (running.symm.trans stopping)
  · refine y_first.trans ?_
    simp [nonempty]

/-! ## A Port V burst of an AIR window (R22, R149) -/

/-- The lane once Port V has opened ACTIVE. -/
def Lane.airOpened (fieldRepeat : Bool) (x : Lane) : Lane :=
  { x with
    composer := { x.composer with
      latch := some x.composer.active, opened := true,
      pairOpened := fieldRepeat || x.composer.pairOpened, unopened := 0 },
    hold := { x.hold with counters := { x.hold.counters with
      lateReads := x.hold.counters.lateReads + if x.composer.missed then 1 else 0 } } }

theorem openActive_lane (fieldRepeat : Bool) (c : LaneCtx) (w : Work) :
    (openActive fieldRepeat c w).lane = w.lane.airOpened fieldRepeat := by
  unfold openActive Lane.airOpened
  dsimp only
  cases w.lane.composer.missed with
  | true =>
    rw [if_pos rfl]
    split <;> rfl
  | false =>
    rw [if_neg Bool.false_ne_true]
    split <;> simp [Work.setComposer]

theorem openActive_out {fieldRepeat : Bool} {c : LaneCtx} {w : Work} (onTime : w.lane.composer.missed = false)
    (first : w.lane.composer.unopened ≠ 3) : (openActive fieldRepeat c w).out = w.out := by
  unfold openActive
  dsimp only
  rw [if_neg first, onTime]
  rfl

/-- The part once Port V has opened ACTIVE of a lane. -/
def airOpened (l : LaneId) (s : State) : State := runLane l (openActive s.unit.fieldRepeat) s

theorem airOpened_lanes (l : LaneId) (s : State) :
    (airOpened l s).lanes = s.lanes.set l ((s.lanes.get l).airOpened s.unit.fieldRepeat) := by
  unfold airOpened
  rw [runLane_lanes]
  exact congrArg _ (openActive_lane _ _ _)

theorem airOpened_region (l : LaneId) (s : State) (a : Addr) : (airOpened l s).regionOf a = s.regionOf a := by
  unfold State.regionOf State.bootBase airOpened
  rw [runLane_unit, runLane_path]

theorem airOpened_quiet {l : LaneId} {s : State} (onTime : (s.lanes.get l).composer.missed = false)
    (first : (s.lanes.get l).composer.unopened ≠ 3) :
    ∃ k lanes, airOpened l s = { s with freeIndex := k, lanes := lanes } :=
  ⟨_, _, runLane_quiet (openActive_out onTime first)⟩

/-- Word `k` of the AIR window of lane `l` falls there. -/
def State.AirAt (s : State) (w : Window) (a : Addr) (k : Nat) : Prop :=
  s.regionOf a = .window w ∧ w.offset a / 4 = k

/-- R22: after word 0 the words come from the read latch. -/
theorem takeReads_latch {s : State} {w : Window} {x : Packet} (air : w.kind = .air)
    (latch : (s.lanes.get w.laneId).composer.latch = some x) (n k : Nat) (a : Addr)
    (places : ∀ i < n, s.AirAt w (wordAddr a i) (k + 1 + i)) :
    takeReads .v n a s = (s, (List.range' (k + 1) n).map fun j => .inside (x.word j)) := by
  induction n generalizing a k with
  | zero => rfl
  | succ n ih =>
    obtain ⟨inWindow, offset⟩ := places 0 (Nat.succ_pos _)
    rw [wordAddr_zero] at inWindow offset
    have one : takeRead .v a s = (s, .inside (x.word (k + 1))) := by
      unfold takeRead readLatch
      rw [inWindow]
      dsimp only
      rw [if_pos air, offset, latch]
      rfl
    have rest := ih (k + 1) (a + 4) fun i hi => by
      have next := places (i + 1) (Nat.succ_lt_succ hi)
      rw [wordAddr_succ] at next
      rwa [Nat.add_right_comm _ 1 i]
    unfold takeReads
    dsimp only
    rw [one, rest]
    rfl

/-- R22: a burst from word 0 opens ACTIVE and returns its words. -/
theorem takeReads_air {s : State} {w : Window} {n : Nat} {a : Addr} (air : w.kind = .air) (positive : 1 ≤ n)
    (places : ∀ i < n, s.AirAt w (wordAddr a i) i) :
    takeReads .v n a s =
      (airOpened w.laneId s,
        ((List.range n).map (s.lanes.get w.laneId).composer.active.word).map .inside) := by
  obtain ⟨n, rfl⟩ := Nat.exists_eq_add_of_le' positive
  obtain ⟨inWindow, offset⟩ := places 0 positive
  rw [wordAddr_zero] at inWindow offset
  have one : takeRead .v a s =
      (airOpened w.laneId s, .inside ((s.lanes.get w.laneId).composer.active.word 0)) := by
    unfold takeRead readLatch
    rw [inWindow]
    dsimp only
    rw [if_pos air, offset]
    rfl
  have latch : ((airOpened w.laneId s).lanes.get w.laneId).composer.latch =
      some (s.lanes.get w.laneId).composer.active := by
    rw [airOpened_lanes, Quad.get_set, if_pos rfl]
    rfl
  have rest := takeReads_latch air latch n 0 (a + 4) fun i hi => by
    obtain ⟨next, next_offset⟩ := places (i + 1) (Nat.succ_lt_succ hi)
    rw [wordAddr_succ] at next next_offset
    exact ⟨(airOpened_region _ _ _).trans next, by omega⟩
  unfold takeReads
  dsimp only
  rw [one, rest, List.range_eq_range', List.range'_succ, List.map_cons, List.map_cons, List.map_map]
  rfl

theorem readData_inside (ws : List Word) (ms : List (Option Word)) : readData (ws.map .inside) ms = ws := by
  induction ws with
  | nil => rfl
  | cons w ws ih => exact congrArg (w :: ·) ih

theorem windowOf_some {s : State} {k : WindowKind} {l : Option LaneId} {w : Window} (h : s.windowOf k l = some w) :
    w.kind = k ∧ w.lane = l := by
  have := findWindow_some h
  simpa using this

/-- The words of a window from its base fall there, at their offsets. -/
theorem wordAddr_offset {w : Window} {i : Nat} (top : w.base.toNat + w.length ≤ 2 ^ 28) (hi : 4 * i < w.length) :
    w.covers (wordAddr w.base i) = true ∧ w.offset (wordAddr w.base i) = 4 * i := by
  have value : (wordAddr w.base i).toNat = w.base.toNat + 4 * i := by
    unfold wordAddr
    rw [BitVec.toNat_add, BitVec.toNat_ofNat]
    omega
  unfold Window.covers Window.offset
  rw [value]
  simp
  omega

/-- Settles O16. -/
theorem airBurstReturnsActive : Obligations.AirBurstReturnsActive := by
  intro s l n w positive most idle waits running window length top regions
  obtain ⟨air, lane⟩ := windowOf_some window
  have lane_id : w.laneId = l := by
    unfold Window.laneId
    rw [lane]
    rfl
  have places : ∀ i < n, s.AirAt w (wordAddr w.base i) i := fun i hi => by
    obtain ⟨covered, offset⟩ := wordAddr_offset (w := w) (i := i) (by omega) (by omega)
    exact ⟨regions _ covered, by omega⟩
  have taken := takeReads_air air positive places
  rw [lane_id] at taken
  have inside : ∀ i < n, s.needsMemory .v false (wordAddr w.base i) = false := fun i hi => by
    unfold State.needsMemory State.readInside
    rw [(places i hi).1]
    dsimp only
    rw [air]
    rfl
  have well_formed : (Instr.airWord0Read l n).wf = true := by
    unfold Instr.wf burstOk
    simp [positive, most]
  let data := (List.range n).map (s.lanes.get l).composer.active.word
  have answered : answeredInside .v { addr := w.base, xfer := .read n } s = respond .v .ok data (airOpened l s) := by
    unfold answeredInside internalResponse
    rw [takeAccess_read running, taken]
    dsimp only [writes]
    rw [readData_inside]
    rfl
  have effect_eq : effect (.airWord0Read l n) s = settle (respond .v .ok data (airOpened l s)) := by
    show readAir l n s = _
    unfold readAir
    rw [window]
    dsimp only
    rw [receive_inside (p := .v) (x := { addr := w.base, xfer := .read n }) idle inside, answered]
  have path : (airOpened l s).path = s.path := runLane_path _ _ _
  have unit : (airOpened l s).unit = s.unit := runLane_unit _ _ _
  have settled : Settled (respond .v .ok data (airOpened l s)) (settle (respond .v .ok data (airOpened l s))) :=
    settle_settled fun free => by
      obtain ⟨noH, -, -⟩ := waits (path ▸ free)
      refine ⟨?_, rfl⟩
      show (airOpened l s).path.h.waiting? = none
      rw [path]
      exact noH
  have not_stopping : s.unit.partState ≠ .stopping :=
    fun stopping => PartState.noConfusion (running.symm.trans stopping)
  refine ⟨_, (exec_of_wf well_formed s).trans (congrArg _ effect_eq), settled.portV.1, settled.portV.2, ?_, ?_,
    ?_, ?_, ?_, ?_⟩
  · exact settled.lanes.trans (airOpened_lanes l s)
  · intro onTime first
    obtain ⟨k, lanes, opened⟩ := airOpened_quiet onTime first
    rw [opened, settle_quiet]
    · exact ⟨rfl, rfl⟩
    · exact fun free => (waits free).imp_right fun h => ⟨rfl, h.2⟩
    · exact not_stopping
  · exact settled.timer.trans (runLane_timer _ _ _)
  · exact settled.asm.trans (runLane_asm _ _ _)
  · exact (settled.unit (unit.symm ▸ not_stopping)).1.trans unit
  · exact settled.pending.trans (runLane_pending _ _ _)

end Sys2Proof.Machine
end

section
/-!
O17 to O19: the consume index, START, and the windows that START loads.
-/
namespace Sys2Proof.Machine

/-! ## The consume index (R23, R174) -/

theorem offerConsume_eq (data : Word) (s : State) :
    offerConsume data s =
      s.setReport { s.report with consume := if data.toNat < s.report.size then data.toNat else s.report.consume } := by
  unfold offerConsume
  split <;> rfl

theorem takeWrite_consume {a : Addr} {w : Window} {s : State} (inWindow : s.regionOf a = .window w)
    (report : w.kind = .report) (offset : w.offset a = 4) (d : Word) :
    takeWrite .h a d s = (offerConsume d s, .store d) := by
  have passes : s.writeRefused .h a = false := by
    unfold State.writeRefused
    rw [inWindow]
    dsimp only
    rw [report]
    rfl
  unfold takeWrite passWrite
  rw [if_neg (ne_true_of_eq_false passes), inWindow]
  dsimp only
  rw [report, if_pos offset]

theorem grantedTo_unit (p : Port) (x : Access) (s : State) : (grantedTo p x s).unit = s.unit := by cases p <;> rfl

/-- Settles O17. -/
theorem consumeIndexIsTaken : Obligations.ConsumeIndexIsTaken := by
  intro s index w idle free waits running window top region
  obtain ⟨report, -⟩ := windowOf_some window
  let x : Access := { addr := w.base + 4, xfer := .write [index] }
  have offset : w.offset (w.base + 4) = 4 := by
    have value : (w.base + 4).toNat = w.base.toNat + 4 := by
      have four : BitVec.toNat (4 : Addr) = 4 := rfl
      rw [BitVec.toNat_add, four]
      omega
    unfold Window.offset
    omega
  have taken : takeAccess .h x (grantedTo .h x s) = (offerConsume index (grantedTo .h x s), [.store index]) := by
    rw [takeAccess_write ((congrArg _ (grantedTo_unit .h x s)).trans running)]
    unfold takeWrites
    dsimp only
    rw [takeWrite_consume ((grantedTo_region .h x s _).trans region) report offset]
    rfl
  have after : afterGrant .h x s =
      (offerConsume index (grantedTo .h x s)).setPortM (some (portAccess .h x [.store index])) := by
    unfold afterGrant
    rw [taken]
  rw [offerConsume_eq] at after
  have not_stopping : s.unit.partState ≠ .stopping :=
    fun stopping => PartState.noConfusion (running.symm.trans stopping)
  have needs : s.needsMemory .h true (wordAddr x.addr 0) = true := by
    rw [wordAddr_zero]
    unfold State.needsMemory State.writeRefused
    rw [region]
    dsimp only
    rw [report]
    rfl
  have received : exec (.consumeIndexWrite index) s = .next (afterGrant .h x s) := by
    refine (exec_of_wf rfl s).trans (congrArg _ ?_)
    show writeConsume index s = _
    unfold writeConsume
    rw [window]
    exact receive_granted (p := .h) (x := x) idle free waits not_stopping (accessNeedsMemory_of (by decide : 0 < 1) needs)
      (by rw [after]; exact not_stopping)
  refine ⟨_, received, ?_⟩
  rw [after]
  exact ⟨rfl, rfl, rfl, rfl, rfl, rfl, rfl, rfl⟩

/-! ## The words of START (R19, R166) -/

/-- The setup copy replaced. -/
def State.withSetup (s : State) (copy : List Word) : State := { s with unit := { s.unit with setupCopy := copy } }

/-- R166: the words of a Port H write to the boot window go to the setup copy, and on to memory. -/
theorem takeWrites_boot (data : List Word) (k : Nat) (a : Addr) (s : State)
    (boot : ∀ i < data.length, s.regionOf (wordAddr a i) = .boot (k + i))
    (room : k + data.length ≤ s.unit.setupCopy.length) :
    takeWrites .h a data s =
      (s.withSetup (s.unit.setupCopy.take k ++ data ++ s.unit.setupCopy.drop (k + data.length)), data.map .store) := by
  induction data generalizing k a s with
  | nil =>
    have same : s.unit.setupCopy.take k ++ [] ++ s.unit.setupCopy.drop (k + 0) = s.unit.setupCopy := by
      rw [List.append_nil]
      exact List.take_append_drop _ _
    rw [List.length_nil, same]
    rfl
  | cons d ds ih =>
    rw [List.length_cons] at room
    have first := boot 0 (Nat.succ_pos _)
    rw [wordAddr_zero] at first
    have one : takeWrite .h a d s = (s.withSetup (s.unit.setupCopy.set k d), .store d) := by
      unfold takeWrite State.writeRefused passWrite
      rw [first]
      rfl
    have rest := ih (k + 1) (a + 4) (s.withSetup (s.unit.setupCopy.set k d))
      (fun i hi => by
        rw [Nat.add_right_comm, ← wordAddr_succ]
        exact boot (i + 1) (Nat.succ_lt_succ hi))
      (by
        show k + 1 + ds.length ≤ (s.unit.setupCopy.set k d).length
        rw [List.length_set]
        omega)
    have copy : (s.unit.setupCopy.set k d).take (k + 1) ++ ds ++ (s.unit.setupCopy.set k d).drop (k + 1 + ds.length) =
        s.unit.setupCopy.take k ++ d :: ds ++ s.unit.setupCopy.drop (k + (d :: ds).length) := by
      have inside : k < s.unit.setupCopy.length := by omega
      rw [List.drop_set_of_lt (by omega), List.take_add_one, List.take_set_of_le (Nat.le_refl k),
        List.getElem?_set_self inside, List.length_cons]
      simp [Nat.add_assoc, Nat.add_comm 1]
    unfold takeWrites
    dsimp only
    rw [one, rest]
    exact congrArg (fun c => (s.withSetup c, _)) copy

theorem bootBase_top (s : State) : s.bootBase + 512 ≤ 2 ^ 28 := by
  unfold State.bootBase Machine.bootBase
  cases s.unit.boot1 <;> cases s.unit.boot0 <;> decide

/-- The value of the address of word `i` of the boot window. -/
theorem bootWord_toNat {s : State} {i : Nat} (hi : i < 128) :
    (wordAddr (BitVec.ofNat 28 s.bootBase) i).toNat = s.bootBase + 4 * i := by
  have top := bootBase_top s
  unfold wordAddr
  rw [BitVec.toNat_add, BitVec.toNat_ofNat, BitVec.toNat_ofNat]
  omega

/-- R19: the words of the boot window in SETUP. -/
theorem bootWord_region {s : State} {i : Nat} (setup : s.unit.partState = .setup) (hi : i < 128) :
    s.regionOf (wordAddr (BitVec.ofNat 28 s.bootBase) i) = .boot i := by
  unfold State.regionOf
  rw [setup, bootWord_toNat hi]
  dsimp only
  rw [if_pos (by omega)]
  congr 1
  omega

theorem startWritten_startAccess {rest : List Word} {s : State} (setup : s.unit.partState = .setup) :
    startWritten .h (startAccess rest s) s = true := by
  unfold startWritten startAccess
  rw [setup]
  refine List.any_eq_true.2 ⟨0, List.mem_range.2 (Nat.succ_pos _), ?_⟩
  rw [bootWord_toNat (by decide)]
  simp [wordAt]

/-! ## START carried out (R167, R168) -/

/-- The writes that START enters: the setup result, and the first header write. -/
def resultRequest (failure : Option (SetupReason × Option Nat)) (s : State) : Request :=
  { requester := .setupResult, addr := s.resultAddr, xfer := .write [resultWord failure s.unit.resetCause] }

def startHeaderRequest (s : State) : Request :=
  { requester := .report, addr := (loadSetup s).reportBase + 8, xfer := .write [0] }

/-- The part with a request list in the place of its own. -/
def State.withRequests (s : State) (qs : List Request) : State :=
  { s with engine := { s.engine with requests := qs } }

/-- An entry of a requester that has none in the list, while a port's access is on Port M. -/
theorem enterRequest_appends {q : Request} {s : State} {qs : List Request} {p : Port} {m : MAccess}
    (list : s.engine.requests = qs) (others : ∀ r ∈ qs, r.requester ≠ q.requester)
    (portM : s.path.portM = some m) (owner : m.owner = .port p) : enterRequest q s = s.withRequests (qs ++ [q]) := by
  have free : ¬ s.requesterBusy q.requester = true := by
    rw [requesterBusy_iff]
    rintro (⟨r, mem, same⟩ | ⟨n, on, engine⟩)
    · exact others r (list ▸ mem) same
    · cases Option.some.inj (portM.symm.trans on)
      exact Owner.noConfusion (owner.symm.trans engine)
  unfold enterRequest State.withRequests
  rw [if_neg free, list]

theorem doStart_refused {s : State} {f : SetupReason × Option Nat} {p : Port} {m : MAccess}
    (fails : setupFailure s.bootBase s.unit.setupCopy = some f) (list : s.engine.requests = [])
    (portM : s.path.portM = some m) (owner : m.owner = .port p) :
    doStart s = s.withRequests [resultRequest (some f) s] := by
  unfold doStart
  rw [fails]
  exact enterRequest_appends list (fun _ none => nomatch none) portM owner

theorem doStart_accepted {s : State} {p : Port} {m : MAccess}
    (passes : setupFailure s.bootBase s.unit.setupCopy = none) (list : s.engine.requests = [])
    (portM : s.path.portM = some m) (owner : m.owner = .port p) :
    doStart s = ((loadSetup s).setReport { (loadSetup s).report with phase := .startDropped }).withRequests
      [resultRequest none s, startHeaderRequest s] := by
  have result : enterResult none (loadSetup s) = (loadSetup s).withRequests [resultRequest none s] :=
    enterRequest_appends (s := loadSetup s) list (fun _ none => nomatch none) portM owner
  unfold doStart
  rw [passes]
  dsimp only
  rw [result]
  refine enterRequest_appends (qs := [resultRequest none s]) (m := m) rfl (fun r mem => ?_) portM owner
  cases List.mem_singleton.1 mem
  exact fun same => Requester.noConfusion same

/-- The Report Unit that an accepted START leaves, its first header write under way. -/
def startedReport (copy : List Word) : ReportUnit :=
  { staging := [], produce := 0, consume := 0, dropped := 0, lastDropped := 0,
    ringSize := some (readRingSize copy), phase := .startDropped }

theorem doStart_accepted_fields {s : State} {p : Port} {m : MAccess}
    (passes : setupFailure s.bootBase s.unit.setupCopy = none) (list : s.engine.requests = [])
    (portM : s.path.portM = some m) (owner : m.owner = .port p) :
    (doStart s).unit.partState = .running ∧ (doStart s).unit.fieldRepeat = readFieldRepeat s.unit.setupCopy ∧
      (doStart s).path.windows = readWindows s.unit.setupCopy ∧
      (doStart s).path.memLimit = readMemLimit s.unit.setupCopy ∧
      (doStart s).timer = s.timer.load (readTiming s.unit.setupCopy) ∧
      (doStart s).report = startedReport s.unit.setupCopy ∧
      (doStart s).engine.requests = [resultRequest none s, startHeaderRequest s] := by
  rw [doStart_accepted passes list portM owner]
  exact ⟨rfl, rfl, rfl, rfl, rfl, rfl, rfl⟩

theorem doStart_refused_fields {s : State} {f : SetupReason × Option Nat} {p : Port} {m : MAccess}
    (fails : setupFailure s.bootBase s.unit.setupCopy = some f) (list : s.engine.requests = [])
    (portM : s.path.portM = some m) (owner : m.owner = .port p) :
    (doStart s).unit = s.unit ∧ (doStart s).path.windows = s.path.windows ∧ (doStart s).timer = s.timer ∧
      (doStart s).report = s.report ∧ (doStart s).engine.requests = [resultRequest (some f) s] := by
  rw [doStart_refused fails list portM owner]
  exact ⟨rfl, rfl, rfl, rfl, rfl⟩

theorem load_timing (t : FieldTimer) (v : Timing) : (t.load v).timing = some v := by
  unfold FieldTimer.load
  cases t.timing <;> rfl

theorem load_f (t : FieldTimer) (v : Timing) : (t.load v).f = t.f := by
  unfold FieldTimer.load
  cases t.timing <;> rfl

/-- R168 step 3: the first START locks the reference and begins the count of fields afresh. -/
theorem load_first {t : FieldTimer} (v : Timing) (first : t.timing = none) :
    (t.load v).refState = .locked ∧ (t.load v).field = none := by
  unfold FieldTimer.load
  rw [first]
  exact ⟨rfl, rfl⟩

/-- The part with START's words copied, before START is carried out. -/
def startTaken (rest : List Word) (s : State) : State :=
  (grantedTo .h (startAccess rest s) s).withSetup ((1 :: rest) ++ s.unit.setupCopy.drop (rest.length + 1))

/-- What the words of START leave of the part, before START is carried out. -/
theorem startTaken_fields (rest : List Word) (s : State) :
    (startTaken rest s).lanes = s.lanes ∧ (startTaken rest s).asm = s.asm ∧ (startTaken rest s).pending = s.pending ∧
      (startTaken rest s).timer = s.timer ∧ (startTaken rest s).report = s.report ∧
      (startTaken rest s).engine = s.engine ∧
      (startTaken rest s).unit =
        { s.unit with setupCopy := (1 :: rest) ++ s.unit.setupCopy.drop (rest.length + 1) } ∧
      (startTaken rest s).path.windows = s.path.windows ∧ (startTaken rest s).path.lastServed = .portH ∧
      (startTaken rest s).path.portM = some (portAccess .h (startAccess rest s) []) := by
  unfold startTaken State.withSetup grantedTo
  dsimp only
  simp [servedAfter]

/-- What START carried out leaves as it is. -/
theorem doStart_fields (s : State) :
    (doStart s).lanes = s.lanes ∧ (doStart s).asm = s.asm ∧ (doStart s).pending = s.pending ∧
      (doStart s).unit.setupCopy = s.unit.setupCopy := by
  unfold doStart
  split
  · simp [enterResult]
  · simp [enterStartHeader, enterResult, loadSetup]

theorem afterGrant_start {rest : List Word} {s : State} (short : rest.length ≤ 15) (setup : s.unit.partState = .setup)
    (size : s.SetupOk) :
    afterGrant .h (startAccess rest s) s =
      (doStart (startTaken rest s)).setPortM (some (portAccess .h (startAccess rest s) ((1 :: rest).map .store))) := by
  have unit := grantedTo_unit .h (startAccess rest s) s
  have words := takeWrites_boot (1 :: rest) 0 (BitVec.ofNat 28 s.bootBase) (grantedTo .h (startAccess rest s) s)
    (fun i hi => by
      rw [grantedTo_region, Nat.zero_add]
      exact bootWord_region setup (by rw [List.length_cons] at hi; omega))
    (by
      rw [unit, show s.unit.setupCopy.length = 128 from size, List.length_cons]
      omega)
  rw [unit, List.take_zero, Nat.zero_add] at words
  have taken : takeAccess .h (startAccess rest s) (grantedTo .h (startAccess rest s) s) =
      (doStart (startTaken rest s), (1 :: rest).map .store) := by
    have start : startWritten .h (startAccess rest s) (grantedTo .h (startAccess rest s) s) = true :=
      startWritten_startAccess (s := s) setup
    unfold takeAccess
    dsimp only
    rw [start, if_pos rfl]
    show (doStart (takeWrites .h (BitVec.ofNat 28 s.bootBase) (1 :: rest) _).1,
      (takeWrites .h (BitVec.ofNat 28 s.bootBase) (1 :: rest) _).2) = _
    rw [words]
    rfl
  unfold afterGrant
  rw [taken]

/-- The access that carries START is granted Port M as it arrives. -/
theorem exec_start {rest : List Word} {s : State} (short : rest.length ≤ 15) (setup : s.unit.partState = .setup)
    (idle : s.path.h.state = .idle) (free : s.path.portM = none) (waits : s.NoneWaits)
    (after : (afterGrant .h (startAccess rest s) s).unit.partState ≠ .stopping) :
    exec (.start rest) s = .next (afterGrant .h (startAccess rest s) s) := by
  have well_formed : (Instr.start rest).wf = true := by
    unfold Instr.wf burstOk
    simp
    omega
  have needs : s.needsMemory .h true (wordAddr (startAccess rest s).addr 0) = true := by
    unfold State.needsMemory State.writeRefused startAccess
    rw [bootWord_region setup (by decide)]
    rfl
  have running : s.unit.partState ≠ .stopping := fun stopping => PartState.noConfusion (setup.symm.trans stopping)
  exact (exec_of_wf well_formed s).trans (congrArg _
    (receive_granted (p := .h) idle free waits running (accessNeedsMemory_of (Nat.succ_pos _) needs) after))

theorem startTaken_bootBase (rest : List Word) (s : State) : (startTaken rest s).bootBase = s.bootBase := by
  obtain ⟨-, -, -, -, -, -, unit, -⟩ := startTaken_fields rest s
  unfold State.bootBase
  rw [unit]

theorem startTaken_result (f : Option (SetupReason × Option Nat)) (rest : List Word) (s : State) :
    resultRequest f (startTaken rest s) =
      { requester := .setupResult, addr := BitVec.ofNat 28 (s.bootBase + 4),
        xfer := .write [resultWord f s.unit.resetCause] } := by
  obtain ⟨-, -, -, -, -, -, unit, -⟩ := startTaken_fields rest s
  unfold resultRequest State.resultAddr
  rw [startTaken_bootBase, unit]

/-- Settles O18. -/
theorem startLoadsOrRefuses : Obligations.StartLoadsOrRefuses := by
  intro s rest short setup size idle free waits copy
  obtain ⟨-, -, list⟩ := waits free
  have received := exec_start short setup idle free waits
  obtain ⟨lanes, asm, pending, timer, report, engine, unit, windows, served, portM⟩ := startTaken_fields rest s
  have base := startTaken_bootBase rest s
  have result := fun f => startTaken_result f rest s
  rw [afterGrant_start short setup size] at received
  have setup_copy : (startTaken rest s).unit.setupCopy = copy := by rw [unit]
  have part_state : (startTaken rest s).unit.partState = .setup := by rw [unit, ← setup]
  generalize startTaken rest s = u at *
  obtain ⟨lanes', asm', pending', copy'⟩ := doStart_fields u
  cases outcome : setupFailure s.bootBase copy with
  | some f =>
    have fails : setupFailure u.bootBase u.unit.setupCopy = some f := by rw [base, setup_copy, outcome]
    obtain ⟨unit', windows', timer', report', requests⟩ :=
      doStart_refused_fields fails (by rw [engine, list]) portM rfl
    have in_setup : (doStart u).unit.partState = .setup := by rw [unit', part_state]
    refine ⟨_, received ?_, copy'.trans setup_copy, rfl, lanes'.trans lanes, asm'.trans asm, pending'.trans pending,
      (doStart_lastServed u).trans served, fun g same => ?_, fun none => (nomatch none)⟩
    · rw [State.setPortM_unit, in_setup]
      exact fun stopping => PartState.noConfusion stopping
    · cases Option.some.inj same
      exact ⟨in_setup, windows'.trans windows, timer'.trans timer, report'.trans report, by
        rw [State.setPortM_engine, requests, result]⟩
  | none =>
    have passes : setupFailure u.bootBase u.unit.setupCopy = none := by rw [base, setup_copy, outcome]
    obtain ⟨running, fieldRepeat, windows', limit, timer', report', requests⟩ :=
      doStart_accepted_fields passes (by rw [engine, list]) portM rfl
    rw [setup_copy] at fieldRepeat windows' limit timer' report'
    rw [timer] at timer'
    rw [result] at requests
    refine ⟨_, received ?_, copy'.trans setup_copy, rfl, lanes'.trans lanes, asm'.trans asm, pending'.trans pending,
      (doStart_lastServed u).trans served, fun g same => (nomatch same), fun _ => ?_⟩
    · rw [State.setPortM_unit, running]
      exact fun stopping => PartState.noConfusion stopping
    · unfold State.attn
      rw [State.setPortM_unit, State.setPortM_timer, State.setPortM_report, State.setPortM_engine, State.setPortM_path,
        running, timer', report', requests]
      exact ⟨rfl, fieldRepeat, windows', limit, load_timing _ _, load_f _ _, load_first _, rfl, rfl, rfl, rfl, rfl, rfl,
        rfl, List.mem_cons_self⟩

/-! ## The loaded windows (R167 test 4, R168 step 1) -/

theorem firstFailing_none {p : Nat × RawEntry → Bool} {all : List (Nat × RawEntry)} (h : firstFailing p all = none) :
    ∀ x ∈ all, p x = false := by
  unfold firstFailing at h
  rw [Option.map_eq_none_iff, List.find?_eq_none] at h
  exact fun x mem => Bool.not_eq_true _ ▸ h x mem

/-- An accepted table passes R167 test 4. -/
theorem no_overlaps {boot : Nat} {copy : List Word} (h : setupFailure boot copy = none) :
    ∀ x ∈ rawEntries copy, overlaps boot (rawEntries copy) x = false := by
  refine firstFailing_none ?_
  unfold setupFailure at h
  dsimp only at h
  split at h
  · cases h
  · split at h
    · cases h
    · split at h
      · cases h
      · split at h
        · cases h
        · assumption

/-- A loaded window is an entry of the copy, at its own index. -/
theorem readWindows_entry {copy : List Word} {i : Nat} {w : Window} (h : (readWindows copy)[i]? = some (some w)) :
    ∃ e, (i, e) ∈ rawEntries copy ∧ w.base.toNat = e.base ∧ w.length = e.length := by
  unfold readWindows at h
  rw [List.getElem?_map, Option.map_eq_some_iff] at h
  obtain ⟨j, at_i, loaded⟩ := h
  obtain ⟨hi, same⟩ := List.getElem?_eq_some_iff.1 at_i
  rw [List.getElem_range] at same
  subst same
  obtain ⟨e, entry, window⟩ := Option.bind_eq_some_iff.1 loaded
  obtain ⟨k, -, rfl⟩ := Option.map_eq_some_iff.1 window
  refine ⟨e, List.mem_filterMap.2 ⟨i, ?_, ?_⟩, ?_, rfl⟩
  · rw [List.length_range] at hi
    exact List.mem_range.2 hi
  · rw [entry]
    rfl
  · have small : e.base < 2 ^ 28 := by
      unfold rawEntry at entry
      dsimp only at entry
      split at entry
      · cases entry
      · cases entry
        exact Nat.mod_lt _ (by decide)
    exact (BitVec.toNat_ofNat _ _).trans (Nat.mod_eq_of_lt small)

/-- Two loaded windows, in the order of their indices, share no address. -/
theorem readWindows_apart {boot : Nat} {copy : List Word} (h : setupFailure boot copy = none) {i j : Nat}
    {v w : Window} (hv : (readWindows copy)[i]? = some (some v)) (hw : (readWindows copy)[j]? = some (some w))
    (order : i < j) (a : Addr) : ¬ (v.covers a = true ∧ w.covers a = true) := by
  rintro ⟨in_v, in_w⟩
  obtain ⟨e, mem_e, base_v, length_v⟩ := readWindows_entry hv
  obtain ⟨f, mem_f, base_w, length_w⟩ := readWindows_entry hw
  unfold Window.covers at in_v in_w
  simp only [Bool.and_eq_true, decide_eq_true_iff] at in_v in_w
  have meets : rangesMeet e.base e.length f.base f.length = true := by
    unfold rangesMeet
    simp only [Bool.and_eq_true, decide_eq_true_iff]
    omega
  have overlap : overlaps boot (rawEntries copy) (j, f) = true := by
    unfold overlaps
    rw [Bool.or_eq_true]
    refine .inr (List.any_eq_true.2 ⟨_, mem_e, ?_⟩)
    rw [Bool.and_eq_true]
    exact ⟨decide_eq_true order, meets⟩
  exact Bool.false_ne_true ((no_overlaps h _ mem_f).symm.trans overlap)

/-- Settles O19. -/
theorem loadedWindowsAreDisjoint : Obligations.LoadedWindowsAreDisjoint := by
  intro boot copy h i j v w hv hw apart a
  rcases Nat.lt_or_gt_of_ne apart with order | order
  · exact readWindows_apart h hv hw order a
  · exact fun both => readWindows_apart h hw hv order a both.symm

end Sys2Proof.Machine
end

section
/-!
O20, O21 and O26: the ends of an upstream access and of the setup result write. What the end of an event leaves of a
port that does not wait, and of an access that has entered the request list.
-/
namespace Sys2Proof.Machine

/-! ## A port that does not wait (R27) -/

theorem SamePorts.of_alike {s t : State} (h : Alike s t) : SamePorts s t :=
  ⟨h.portH, h.portV, congrArg _ h.portM⟩

/-- R27: a grant to one port reaches neither the state nor the response of the other. -/
theorem grantPort_other {p q : Port} (x : Access) (s : State) (other : p ≠ q) :
    ((grantPort q x s).portUnit p).state = (s.portUnit p).state ∧
      ((grantPort q x s).portUnit p).response = (s.portUnit p).response := by
  have taken := ((takeRule_samePorts _).takeAccess q x (.refl ((s.setPort q { s.portUnit q with state := .inFlight }).setPortM
    (some { owner := .port q, addr := x.addr, isWrite := writes x.xfer, words := [], orphan := false })))).unit p
  rw [State.setPortM_portUnit, State.setPort_portUnit_other _ _ other] at taken
  exact taken

theorem arbitrate_idle {s : State} {p : Port} (idle : (s.portUnit p).waiting? = none) :
    ((arbitrate s).portUnit p).state = (s.portUnit p).state ∧
      ((arbitrate s).portUnit p).response = (s.portUnit p).response := by
  have step := arbitrate_arbitrated s
  revert step
  generalize arbitrate s = t
  intro step
  cases step with
  | busy _ => exact ⟨rfl, rfl⟩
  | quiet _ => exact ⟨rfl, rfl⟩
  | port q x served free waits =>
    have other : p ≠ q := by
      rintro rfl
      cases idle.symm.trans waits
    have kept := grantPort_other x (s.setServed served) other
    rwa [show (s.setServed served).portUnit p = s.portUnit p by cases p <;> rfl] at kept
  | engine q served free noV mem => cases p <;> exact ⟨rfl, rfl⟩

theorem waiting_idle {u : PortUnit} (idle : u.state = .idle) : u.waiting? = none := by
  unfold PortUnit.waiting?
  rw [idle]

/-- The end of an event keeps an IDLE port and its response. -/
theorem settle_idle {s : State} {p : Port} (idle : (s.portUnit p).state = .idle) :
    ((settle s).portUnit p).state = .idle ∧ ((settle s).portUnit p).response = (s.portUnit p).response := by
  obtain ⟨before, before_response⟩ := (SamePorts.of_alike (finishStopping_alike s)).unit p
  obtain ⟨granted, granted_response⟩ := arbitrate_idle (waiting_idle (before.trans idle))
  obtain ⟨after, after_response⟩ := (SamePorts.of_alike (finishStopping_alike (arbitrate (finishStopping s)))).unit p
  exact ⟨after.trans (granted.trans (before.trans idle)),
    after_response.trans (granted_response.trans before_response)⟩

/-! ## The end of an upstream access (R24, R26) -/

/-- R24, R26: what the end of an upstream access leaves. -/
theorem endAccess_port_response {s : State} {p : Port} {m : MAccess} (e : Ending) (owner : m.owner = .port p) :
    ((endAccess m e s).portUnit p).state = .idle ∧
      ((endAccess m e s).portUnit p).response = some (e.response m.isWrite m.words) ∧
      (s.PortsQuiet → s.engine.requests = [] → s.unit.partState ≠ .stopping →
        endAccess m e s = (s.setPortM none).setPort p
          { s.portUnit p with state := .idle, response := some (e.response m.isWrite m.words) }) := by
  rw [endAccess_port owner]
  generalize responded : respond p (e.response m.isWrite m.words).code (e.response m.isWrite m.words).data
    (s.setPortM none) = u
  have unit : u.portUnit p =
      { s.portUnit p with state := .idle, response := some (e.response m.isWrite m.words) } := by
    rw [← responded]
    cases p <;> rfl
  obtain ⟨idle, response⟩ := settle_idle (s := u) (p := p) (by rw [unit])
  refine ⟨idle, by rw [response, unit], fun quiet list running => ?_⟩
  rw [settle_quiet, ← responded]
  · cases p <;> rfl
  · intro _
    rw [← responded]
    obtain ⟨noH, noV⟩ := quiet
    cases p with
    | h => exact ⟨rfl, noV, list⟩
    | v => exact ⟨noH, rfl, list⟩
  · rw [← responded]
    cases p <;> exact running

theorem anyMasked_eq (ts : List Taken) : anyMasked ts = ts.contains .masked := by
  unfold anyMasked
  rw [List.contains_eq_any_beq]
  exact congrArg _ (funext fun t => Bool.beq_comm)

/-- Settles O20. -/
theorem upstreamAccessEnds : Obligations.UpstreamAccessEnds := by
  intro s p m a onPortM owner y
  have response : Ending.response (.answered a) m.isWrite m.words = y := by
    have masked := anyMasked_eq m.words
    unfold Ending.response
    dsimp only
    generalize anyMasked m.words = b at masked
    subst masked
    rfl
  have ended : effect (.upstreamAccessEnd a) s = endAccess m (.answered a) s :=
    answerIf_owner onPortM (by rw [owner]; rfl)
  refine ⟨_, (exec_of_wf rfl s).trans (congrArg _ ended), ?_⟩
  rw [← response]
  exact endAccess_port_response _ owner

theorem exec_expiry {s : State} {m : MAccess} (onPortM : s.path.portM = some m) :
    exec .responseTimerExpiry s = .next (endAccess m .expired s) := by
  refine (exec_of_wf rfl s).trans (congrArg _ ?_)
  show expire s = _
  unfold expire
  rw [onPortM]

/-- Settles O21. -/
theorem responseTimerAndLateAnswer : Obligations.ResponseTimerAndLateAnswer := by
  refine ⟨⟨fun s free => ?_, fun s p m onPortM owner => ?_⟩, fun _ _ => rfl⟩
  · refine (exec_of_wf rfl s).trans (congrArg _ ?_)
    show expire s = s
    unfold expire
    rw [free]
  · obtain ⟨idle, response, quiet⟩ := endAccess_port_response (s := s) .expired owner
    exact ⟨_, _, exec_expiry onPortM, idle, response, rfl, quiet⟩

/-! ## The end of an engine access (R26, R30) -/

theorem enterRequest_keeps {r q : Request} {s : State} (h : r ∈ s.engine.requests) :
    r ∈ (enterRequest q s).engine.requests := by
  rcases enterRequest_engine q s with ⟨-, engine⟩ | ⟨-, engine⟩
  · rw [engine]
    exact h
  · rw [engine]
    exact List.mem_append_left _ h

theorem foldl_enterRequest_keeps {r : Request} (qs : List Request) {s : State} (h : r ∈ s.engine.requests) :
    r ∈ (qs.foldl (fun t q => enterRequest q t) s).engine.requests := by
  induction qs generalizing s with
  | nil => exact h
  | cons q qs ih => exact ih (enterRequest_keeps h)

theorem foldl_enterRequest_report (qs : List Request) (s : State) :
    (qs.foldl (fun t q => enterRequest q t) s).report = s.report := by
  induction qs generalizing s with
  | nil => rfl
  | cons q qs ih => exact (ih _).trans (enterRequest_report q s)

/-- R30: the accesses in the list stay there when a deferred one enters. -/
theorem promoteDeferred_keeps {r : Request} {s : State} (h : r ∈ s.engine.requests) :
    r ∈ (promoteDeferred s).engine.requests := foldl_enterRequest_keeps s.engine.deferred h

@[simp] theorem promoteDeferred_report (s : State) : (promoteDeferred s).report = s.report :=
  foldl_enterRequest_report s.engine.deferred _

theorem promoteDeferred_none {s : State} (none : s.engine.deferred = []) : promoteDeferred s = s := by
  unfold promoteDeferred
  rw [none, List.foldl_nil, ← none]

/-- What the promotion of the deferred and the end of an event leave, while no port waits. -/
theorem settle_promoted {s : State} (quiet : s.PortsQuiet) : Settled s (settle (promoteDeferred s)) := by
  have shared := promoteDeferred_shared s
  have promoted : Settled s (promoteDeferred s) := by
    have path := shared.path
    have unit := shared.unit
    exact ⟨⟨shared.pending, shared.asm, ⟨congrArg (·.h.state) path, congrArg (·.h.response) path⟩,
      ⟨congrArg (·.v.state) path, congrArg (·.v.response) path⟩, congrArg (·.memLimit) path,
      congrArg (·.setupCopy) unit, congrArg (·.softOverride) unit, fun _ => ⟨unit, congrArg (·.windows) path⟩⟩,
      shared.timer, shared.lanes, promoteDeferred_report s⟩
  refine promoted.trans (settle_settled fun _ => ?_)
  unfold State.PortsQuiet
  rw [shared.path]
  exact quiet

theorem arbitrate_entered {q : Request} {s : State} (quiet : s.PortsQuiet) (h : q ∈ s.engine.requests) :
    (arbitrate s).Entered q := by
  have step := arbitrate_arbitrated s
  revert step
  generalize arbitrate s = t
  intro step
  cases step with
  | busy _ => exact .inl h
  | quiet _ => exact .inl h
  | port p x served free waits => cases (quiet.port p).symm.trans waits
  | engine r served free noV mem =>
    by_cases same : q = r
    · exact .inr (by rw [same]; rfl)
    · exact .inl ((List.mem_erase_of_ne same).2 h)

/-- R30: an access that entered the list during an event is there or on Port M when the event ends. -/
theorem settle_entered {q : Request} {s : State} (quiet : s.PortsQuiet) (h : q ∈ s.engine.requests) :
    (settle s).Entered q := by
  have before := finishStopping_alike s
  have after := finishStopping_alike (arbitrate (finishStopping s))
  have entered : (arbitrate (finishStopping s)).Entered q := by
    refine arbitrate_entered ?_ (by rw [before.engine]; exact h)
    exact ⟨(waiting_same before.portH.1).trans quiet.1, (waiting_same before.portV.1).trans quiet.2⟩
  unfold State.Entered settle
  rw [after.engine, after.portM]
  exact entered

/-- Settles O26. -/
theorem setupResultEndsQuietly : Obligations.SetupResultEndsQuietly := by
  intro s m onPortM owner quiet running
  have settled : Settled (s.setPortM none) (settle (promoteDeferred (s.setPortM none))) := settle_promoted quiet
  have ended : effect .setupResultWriteEnd s = settle (promoteDeferred (s.setPortM none)) :=
    
    (answerIf_owner (p := fun o => o == .engine .setupResult) (a := .done []) onPortM (by rw [owner]; rfl)).trans
      (endAccess_engine owner)
  obtain ⟨unit, windows⟩ := settled.unit running
  refine ⟨_, (exec_of_wf rfl s).trans (congrArg _ ended),
    ⟨settled.pending, settled.timer, settled.asm, settled.lanes, unit, settled.report⟩, windows, fun list deferred => ?_⟩
  rw [promoteDeferred_none (s := s.setPortM none) deferred, settle_quiet]
  · exact fun _ => ⟨quiet.1, quiet.2, list⟩
  · exact running

end Sys2Proof.Machine
end

section
/-!
O22 and O23: the end of a disposition write-back. The record that waits behind it is processed, or a STOP takes
effect.
-/
namespace Sys2Proof.Machine

/-! ## The end of a wanted engine access -/

variable {r : Requester} {m : MAccess} {s : State}

/-- Port M is FREE when the requester learns of the end. -/
theorem EngineEnds.freed_quiet (E : EngineEnds r m s) (e : Ending) :
    (engineEnd r m e (s.setPortM none)).PortsQuiet := by
  have same := (takeRule_samePorts (s.setPortM none)).engineEnd r m e (.refl _)
  exact ⟨(waiting_same same.portH.1).trans E.quiet.1, (waiting_same same.portV.1).trans E.quiet.2⟩

/-- After its requester has learned of it, the end of an access changes the Memory Path and the request list alone. -/
theorem EngineEnds.settled (E : EngineEnds r m s) (e : Ending) :
    Settled (engineEnd r m e (s.setPortM none)) (endAccess m e s) := by
  rw [endAccess_engine E.owner]
  exact settle_promoted (E.freed_quiet e)

theorem promoteDeferred_quiet {s : State} (quiet : s.PortsQuiet) : (promoteDeferred s).PortsQuiet := by
  unfold State.PortsQuiet
  rw [(promoteDeferred_shared s).path]
  exact quiet

/-- An access that the requester's next step enters waits or has been granted when the event ends. -/
theorem EngineEnds.entered (E : EngineEnds r m s) (e : Ending) {q : Request}
    (h : q ∈ (engineEnd r m e (s.setPortM none)).engine.requests) : (endAccess m e s).Entered q := by
  rw [endAccess_engine E.owner]
  exact settle_entered (promoteDeferred_quiet (E.freed_quiet e)) (promoteDeferred_keeps h)

/-- The requester's next access may enter the list, when none of its own is there. -/
theorem free_requester {s : State} {r : Requester} (free : s.path.portM = none)
    (none : ∀ q ∈ s.engine.requests, q.requester ≠ r) : s.requesterBusy r = false := by
  refine Bool.not_eq_true _ ▸ fun busy => ?_
  rcases requesterBusy_iff.1 busy with ⟨q, mem, same⟩ | ⟨m, on, -⟩
  · exact none q mem same
  · cases free.symm.trans on

/-! ## The end of a write-back (R40) -/

section Writeback
variable {a : AsmId} {h : Handoff} (handoff : (s.asm.get a).handoff = some h) (wanted : m.orphan = false)
  (running : s.unit.partState = .running)
include handoff wanted running

theorem writebackEnd_alone (isStop : h.isStop = false) (alone : ∀ r, (s.asm.get a).stage ≠ .complete r) :
    writebackEnd a m true s = s.setAsm a { s.asm.get a with handoff := none } := by
  have goes_on : ¬ (m.orphan || s.unit.partState != .running) = true := by
    rw [wanted, running]
    decide
  unfold writebackEnd
  dsimp only
  rw [handoff]
  dsimp only
  rw [if_neg goes_on, if_pos rfl, isStop, if_neg Bool.false_ne_true]
  split
  · rename_i r next
    exact absurd next (alone r)
  · rfl
  · rfl

theorem writebackEnd_next (isStop : h.isStop = false) {r : Rec} (next : (s.asm.get a).stage = .complete r) :
    writebackEnd a m true s =
      processRecord a r (s.setAsm a { s.asm.get a with stage := .empty, handoff := none }) := by
  have goes_on : ¬ (m.orphan || s.unit.partState != .running) = true := by
    rw [wanted, running]
    decide
  have twice (x y : Assembler) : (s.setAsm a x).setAsm a y = s.setAsm a y := by
    unfold State.setAsm
    rw [Assemblers.set_set]
  unfold writebackEnd
  dsimp only
  rw [handoff]
  dsimp only
  rw [if_neg goes_on, if_pos rfl, isStop, if_neg Bool.false_ne_true, next]
  dsimp only
  rw [twice, State.setAsm_asm, Assemblers.get_set_same]

theorem writebackEnd_stop (isStop : h.isStop = true) :
    writebackEnd a m true s = stopTakesEffect (s.setAsm a { s.asm.get a with handoff := none }) := by
  unfold writebackEnd
  dsimp only
  rw [handoff]
  dsimp only
  rw [wanted, running, isStop]
  rfl

end Writeback

/-- The list holds no write-back of an assembler, and no processing enters one. -/
theorem workRule_noWriteback (a : AsmId) :
    WorkRule fun s => s.path.portM = none ∧ ∀ q ∈ s.engine.requests, q.requester ≠ .writeBack a where
  alike k h := ⟨k.portM.trans h.1, by rw [k.engine]; exact h.2⟩
  enter {q s} other h := by
    refine ⟨by rw [(enterRequest_shared q s).path]; exact h.1, ?_⟩
    have not_own : q.requester ≠ .writeBack a := by
      rcases other with own | ⟨l, own⟩ <;> rw [own] <;> exact fun same => Requester.noConfusion same
    rcases enterRequest_engine q s with ⟨-, engine⟩ | ⟨-, engine⟩
    · rw [engine]
      exact h.2
    · rw [engine]
      intro x mem
      rcases List.mem_append.1 mem with mem | mem
      · exact h.2 x mem
      · rw [List.mem_singleton.1 mem]
        exact not_own

/-- R40: the disposition of a processed record enters the list, when no write-back of its assembler is there. -/
theorem processRecord_entered {a : AsmId} {x : Rec} {s : State} (free : s.path.portM = none)
    (none : ∀ q ∈ s.engine.requests, q.requester ≠ .writeBack a) :
    { requester := .writeBack a, addr := dispositionAddr (s.ringBase a) x.slot,
      xfer := .write [(processByBlock a x s).disp.word] } ∈ (processRecord a x s).engine.requests := by
  obtain ⟨free', none'⟩ := (workRule_noWriteback a).processByBlock a x ⟨free, none⟩
  have base : (processByBlock a x s).state.ringBase a = s.ringBase a := by
    have path := (processByBlock_processing a x s).path
    unfold State.ringBase State.ringWindow State.windowOf
    rw [path]
  unfold processRecord placeHandoff
  rw [← base]
  exact mem_enterRequest (free_requester free' none')

/-- Settles O22. -/
theorem writebackEmptiesHandoff : Obligations.WritebackEmptiesHandoff := by
  intro s a m h E handoff isStop
  let e : Ending := .answered (.done [])
  have running := E.running
  have ended : exec .dispositionWritebackEnd s = .next (endAccess m e s) :=
    (exec_of_wf rfl s).trans (congrArg _ (answerIf_owner E.onPortM (by rw [E.owner]; rfl)))
  have settled := E.settled e
  have entered := fun q => E.entered (q := q) e
  have stays (u : State) (done : engineEnd (.writeBack a) m e (s.setPortM none) = u)
      (state : u.unit.partState = s.unit.partState) : (endAccess m e s).unit = u.unit := by
    rw [done] at settled
    exact (settled.unit (fun stopping => PartState.noConfusion ((state.symm.trans stopping).symm.trans running))).1
  by_cases next : ∃ r, (s.asm.get a).stage = .complete r
  · obtain ⟨r, stage⟩ := next
    let u := (s.setPortM none).setAsm a { s.asm.get a with stage := .empty, handoff := none }
    have done : engineEnd (.writeBack a) m e (s.setPortM none) = processRecord a r u :=
      writebackEnd_next (s := s.setPortM none) handoff E.wanted running isStop stage
    obtain ⟨pending, timer, path, unit, lanes, report, asm⟩ := processRecord_fields a r u
    have unit' : (processRecord a r u).unit = (processByBlock a r u).state.unit :=
      unit.trans (processByBlock_processing a r u).unit.symm
    have unit_end := stays _ done (by rw [unit]; rfl)
    rw [done] at settled entered
    refine ⟨_, ended, settled.timer.trans timer, settled.pending.trans pending,
      fun alone => absurd stage (alone r), fun r' same => ?_⟩
    cases stage.symm.trans same
    refine ⟨settled.asm.trans (asm.trans ?_), settled.lanes.trans lanes, settled.report.trans report,
      unit_end.trans unit', fun none => entered _ (processRecord_entered rfl none)⟩
    show (s.asm.set a _).set a { (s.asm.set a _).get a with handoff := _ } = _
    rw [Assemblers.set_set, Assemblers.get_set_same]
  · have alone : ∀ r, (s.asm.get a).stage ≠ .complete r := fun r stage => next ⟨r, stage⟩
    have done : engineEnd (.writeBack a) m e (s.setPortM none) =
        (s.setPortM none).setAsm a { s.asm.get a with handoff := none } :=
      writebackEnd_alone (s := s.setPortM none) handoff E.wanted running isStop alone
    have unit_end := stays _ done rfl
    rw [done] at settled
    exact ⟨_, ended, settled.timer, settled.pending,
      fun _ => ⟨settled.asm, settled.lanes, settled.report, unit_end⟩, fun r stage => absurd stage (alone r)⟩

/-! ## STOP (R169) -/

/-- The STOPPED report. -/
def stoppedReport (s : State) : Report :=
  { cause := .stopped, lane := .none, ringSlot := none, field := s.timer.f,
    detail := [.whole (BitVec.ofNat 32 s.report.staging.length), .whole s.report.dropped] }

/-- R169, R172: a STOP with room in the report ring leaves the STOPPED report alone in the staging queue. -/
theorem stopTakesEffect_staging {s : State} (room : 1 ≤ s.report.freeRecords) :
    (stopTakesEffect s).report.staging = [stoppedReport s] := by
  unfold stopTakesEffect handReport
  dsimp only
  rw [if_pos (by rfl), if_pos (by decide), writerBegin_report rfl]
  have fits : ¬ s.report.freeRecords < (stoppedReport s).records := Nat.not_lt.2 room
  show (dropFull s.report.freeRecords [stoppedReport s] s.report.dropped).1 = _
  unfold dropFull
  rw [if_neg fits]

/-- R48: with no access on Port M the five assemblers are emptied. -/
theorem stopTakesEffect_asm {s : State} (free : s.path.portM = none) : (stopTakesEffect s).asm = .reset := by
  refine (handReport_asm _ _).trans ?_
  show stopAssemblers s.path.portM s.asm = _
  rw [free]
  rfl

theorem stopTakesEffect_lanes (s : State) : (stopTakesEffect s).lanes = .all .reset := handReport_lanes _ _

theorem stopTakesEffect_timer (s : State) : (stopTakesEffect s).timer = s.timer := handReport_timer _ _

theorem stopTakesEffect_unit (s : State) :
    (stopTakesEffect s).unit = { s.unit with partState := .stopping, softOverride := false } := handReport_unit _ _

/-- What an arbitration with no port waiting leaves. -/
theorem arbitrate_stays {s : State} (quiet : s.PortsQuiet) :
    (arbitrate s).unit = s.unit ∧ (arbitrate s).path.windows = s.path.windows := by
  have step := arbitrate_arbitrated s
  revert step
  generalize arbitrate s = t
  intro step
  cases step with
  | busy _ => exact ⟨rfl, rfl⟩
  | quiet _ => exact ⟨rfl, rfl⟩
  | port p x served free waits => cases (quiet.port p).symm.trans waits
  | engine r served free noV mem => exact ⟨rfl, rfl⟩

theorem finishStopping_staged {s : State} (staged : s.report.staging ≠ []) : finishStopping s = s := by
  unfold finishStopping
  exact if_neg fun h => staged h.2.1

/-- R169: while a report is staged, STOPPING does not end. -/
theorem settle_staged {s : State} (quiet : s.PortsQuiet) (staged : s.report.staging ≠ []) :
    (settle s).unit = s.unit ∧ (settle s).path.windows = s.path.windows := by
  have granted := arbitrate_settled fun _ => quiet
  unfold settle
  rw [finishStopping_staged staged, finishStopping_staged (by rw [granted.report]; exact staged)]
  exact arbitrate_stays quiet

/-- Settles O23. -/
theorem stopTakesEffectAtItsWriteback : Obligations.StopTakesEffectAtItsWriteback := by
  intro s m h E handoff isStop room
  let e : Ending := .answered (.done [])
  let u := (s.setPortM none).setAsm .command { s.asm.command with handoff := none }
  have ended : exec .dispositionWritebackEnd s = .next (endAccess m e s) :=
    (exec_of_wf rfl s).trans (congrArg _ (answerIf_owner E.onPortM (by rw [E.owner]; rfl)))
  have done : engineEnd (.writeBack .command) m e (s.setPortM none) = stopTakesEffect u :=
    writebackEnd_stop (s := s.setPortM none) handoff E.wanted E.running isStop
  have settled := E.settled e
  have quiet := E.freed_quiet e
  rw [done] at settled quiet
  have staging : (stopTakesEffect u).report.staging = [stoppedReport u] := stopTakesEffect_staging room
  have shared := promoteDeferred_shared (stopTakesEffect u)
  obtain ⟨unit, windows⟩ := settle_staged (promoteDeferred_quiet quiet)
    (by rw [promoteDeferred_report, staging]; exact List.cons_ne_nil _ _)
  rw [shared.unit, stopTakesEffect_unit] at unit
  rw [shared.path, stopTakesEffect_path] at windows
  have same : endAccess m e s = settle (promoteDeferred (stopTakesEffect u)) := by
    rw [endAccess_engine E.owner, done]
  rw [← same] at unit windows
  refine ⟨_, stoppedReport u, ended, by rw [unit], by rw [unit], fun l => ?_,
    settled.asm.trans (stopTakesEffect_asm rfl), settled.timer.trans (stopTakesEffect_timer u), windows,
    (congrArg (·.staging) settled.report).trans staging, rfl, rfl, rfl⟩
  rw [settled.lanes, stopTakesEffect_lanes, Quad.get_all]

end Sys2Proof.Machine
end

section
/-!
O24 and O25: the ends of a script fetch burst and of an access of the report writer.
-/
namespace Sys2Proof.Machine

/-! ## The refill (R124) -/

/-- R124: a refill changes the fetch alone of the lane's follower. -/
theorem refill_follower (c : LaneCtx) (w : Work) :
    ∃ x, (refill c w).lane.follower = { w.lane.follower with fetch := x } := by
  unfold refill
  dsimp only
  split
  · split
    · exact ⟨_, rfl⟩
    · exact ⟨w.lane.follower.fetch, rfl⟩
  · exact ⟨w.lane.follower.fetch, rfl⟩

/-! ## The records of a burst (R125) -/

theorem wellFormedPrefix_map (rs : List ScriptRec) (k : Nat) : wellFormedPrefix (rs.map some) k = .ok rs := by
  induction rs generalizing k with
  | nil => rfl
  | cons r rs ih =>
    rw [List.map_cons]
    unfold wellFormedPrefix
    rw [ih]

theorem wellFormedPrefix_malformed {xs : List (Option ScriptRec)} (h : none ∈ xs) (k : Nat) :
    ∃ j, wellFormedPrefix xs k = .error j := by
  induction xs generalizing k with
  | nil => cases h
  | cons x xs ih =>
    cases x with
    | none => exact ⟨k, rfl⟩
    | some r =>
      have rest : none ∈ xs := by simpa using h
      obtain ⟨j, error⟩ := ih rest (k + 1)
      refine ⟨j, ?_⟩
      unfold wellFormedPrefix
      rw [error]

theorem fetchFault_follower (c : LaneCtx) (cause : ScriptCause) (i : Nat) (w : Work) :
    (fetchFault c cause i w).lane.follower =
      { w.lane.follower with state := .fault, buffer := [], seek := none, missRun := 0, fetch := none } := by
  unfold fetchFault scriptReport
  dsimp only
  rw [Work.report_lane]
  rfl

/-- R125: the records of a well-formed burst are placed at the end of the buffer. -/
theorem burstPlaced_follower {c : LaneCtx} {x : Fetch} {data : List Word} {rs : List ScriptRec} (w : Work)
    (wellFormed : burstRecords x.records data = rs.map some) :
    ∃ y, (burstPlaced c x data w).lane.follower =
      { w.lane.follower with
        buffer := w.lane.follower.buffer ++ rs, fetchPoint := w.lane.follower.fetchPoint + rs.length, fetch := y } := by
  unfold burstPlaced
  rw [wellFormed, wellFormedPrefix_map]
  dsimp only
  split
  · exact refill_follower _ _
  · exact refill_follower _ _

theorem burstPlaced_malformed {c : LaneCtx} {x : Fetch} {data : List Word} (w : Work)
    (malformed : none ∈ burstRecords x.records data) :
    (burstPlaced c x data w).lane.follower =
      { w.lane.follower with state := .fault, buffer := [], seek := none, missRun := 0, fetch := none } := by
  obtain ⟨k, error⟩ := wellFormedPrefix_malformed malformed 0
  unfold burstPlaced
  rw [error]
  exact fetchFault_follower c _ _ w

/-- R125: the end of a burst whose fetch is not overtaken. -/
theorem burstEnd_placed {c : LaneCtx} {x : Fetch} {data : List Word} {w : Work} (fetch : w.lane.follower.fetch = some x)
    (current : x.overtaken = false) : burstEnd c (some data) w = burstPlaced c x data w := by
  unfold burstEnd
  rw [fetch]
  dsimp only
  rw [current]
  rfl

/-- Settles O24. -/
theorem scriptBurstIsPlaced : Obligations.ScriptBurstIsPlaced := by
  intro s l m x data E fetch current
  let e : Ending := .answered (.done data)
  let f : LaneCtx → Work → Work := fun c w => burstEnd c (some data) w
  have ended : exec (.scriptFetchBurstEnd (.done data)) s = .next (endAccess m e s) :=
    (exec_of_wf rfl s).trans (congrArg _ (answerIf_owner E.onPortM (by rw [E.owner]; rfl)))
  have done : engineEnd (.fetch l) m e (s.setPortM none) = runLane l f (s.setPortM none) := by
    unfold engineEnd
    dsimp only
    rw [E.wanted]
    rfl
  have settled := E.settled e
  rw [done] at settled
  let w := laneWork l f (s.setPortM none)
  have placed : w = burstPlaced _ x data _ :=
    burstEnd_placed (w := { lane := s.lanes.get l, out := [] }) fetch current
  have lanes : (endAccess m e s).lanes = s.lanes.set l w.lane := settled.lanes.trans (runLane_lanes _ _ _)
  have lane : (endAccess m e s).lanes.get l = w.lane := by rw [lanes, Quad.get_set_same]
  have unit : (runLane l f (s.setPortM none)).unit = s.unit := runLane_unit _ _ _
  have running : (runLane l f (s.setPortM none)).unit.partState ≠ .stopping := by
    rw [unit, E.running]
    exact fun stopping => PartState.noConfusion stopping
  refine ⟨_, ended, settled.timer.trans (runLane_timer _ _ _), settled.asm.trans (runLane_asm _ _ _),
    (settled.unit running).1.trans unit, settled.pending.trans (runLane_pending _ _ _), ?_, fun rs wellFormed => ?_,
    fun malformed => ?_⟩
  · have alone : w.lane = { s.lanes.get l with follower := w.lane.follower } :=
      burstEnd_followerOnly _ (some data) { lane := s.lanes.get l, out := [] }
    rw [lane, lanes, ← alone]
  · obtain ⟨y, follower⟩ := burstPlaced_follower (c := s.laneCtx l) { lane := s.lanes.get l, out := [] } wellFormed
    have follower' : w.lane.follower = _ := (congrArg (·.lane.follower) placed).trans follower
    rw [lane, follower']
    exact ⟨rfl, rfl, rfl, rfl⟩
  · have follower := burstPlaced_malformed (c := s.laneCtx l) { lane := s.lanes.get l, out := [] } malformed
    have follower' : w.lane.follower = _ := (congrArg (·.lane.follower) placed).trans follower
    rw [lane, follower']
    exact ⟨rfl, rfl, rfl⟩

/-! ## The report writer (R173) -/

section Writer
variable {s : State} (free : s.requesterBusy .report = false)

/-- What a step of the report writer leaves: the Report Unit, and the access it entered. -/
structure Writes (t : State) (r : ReportUnit) (q : Request) : Prop where
  report : t.report = r
  entered : q ∈ t.engine.requests

/-- What an idle writer's turn leaves of the Report Unit `r`: the room test made, and the first access of the report
begun entered. -/
structure Begins (s t : State) (r : ReportUnit) : Prop where
  report : t.report = r.begun
  entered : ∀ y ys, r.begun.staging = y :: ys → s.recordWrite r.produce 0 y ∈ t.engine.requests

theorem headerWrite_zero (s : State) (v : Word) :
    s.headerWrite 0 v = { requester := .report, addr := s.reportBase, xfer := .write [v] } := by
  unfold State.headerWrite
  rw [wordAddr_zero]

include free

/-- An access of the writer, entered with its next phase. -/
theorem enterRequest_writes (r : ReportUnit) {q : Request} (own : q.requester = .report) :
    Writes (enterRequest q (s.setReport r)) r q :=
  ⟨enterRequest_report _ _, mem_enterRequest (by rw [own]; exact free)⟩

theorem enterStartProduce_writes :
    Writes (enterStartProduce s) { s.report with phase := .startProduce } (s.headerWrite 0 0) := by
  rw [headerWrite_zero]
  exact enterRequest_writes free _ rfl

theorem enterDropped_writes :
    Writes (enterDropped s) { s.report with phase := .dropped s.report.dropped } (s.headerWrite 2 s.report.dropped) :=
  enterRequest_writes free _ rfl

theorem enterProduce_writes :
    Writes (enterProduce s) { s.report with phase := .produce }
      (s.headerWrite 0 (BitVec.ofNat 32 s.report.nextProduce)) := by
  rw [headerWrite_zero]
  exact enterRequest_writes free _ rfl

theorem enterRecord_writes {r : Report} {rs : List Report} (staging : s.report.staging = r :: rs) (i : Nat) :
    Writes (enterRecord i s) { s.report with phase := .record i } (s.recordWrite s.report.produce i r) := by
  unfold enterRecord
  rw [staging]
  exact enterRequest_writes free _ rfl

theorem writerBegin_begins (idle : s.report.phase = .idle) : Begins s (writerBegin s) s.report :=
  ⟨writerBegin_report idle, fun _ _ first => writerBegin_entered idle free first⟩

/-- The writer goes on with the reports behind the one at the front. -/
theorem writerNext_begins {r : Report} {rs : List Report} (staging : s.report.staging = r :: rs) :
    Begins s (writerNext s) { s.report with staging := rs } := by
  unfold writerNext
  rw [staging]
  have begins := writerBegin_begins (s := s.setReport { s.report with staging := rs, phase := .idle }) free rfl
  exact ⟨begins.report, begins.entered⟩

end Writer

theorem nextProduce_cons {u : ReportUnit} {r : Report} {rs : List Report} (staging : u.staging = r :: rs) :
    u.nextProduce = (u.produce + r.records) % u.size := by
  unfold ReportUnit.nextProduce
  rw [staging]

theorem writerBegin_consume (s : State) : (writerBegin s).report.consume = s.report.consume := by
  by_cases idle : s.report.phase = .idle
  · rw [writerBegin_report idle]
    rfl
  · unfold writerBegin
    rw [if_neg idle]

theorem enterRecord_consume (i : Nat) (s : State) : (enterRecord i s).report.consume = s.report.consume := by
  unfold enterRecord
  split
  · rfl
  · rw [enterRequest_report]
    rfl

theorem afterRecords_consume (s : State) : (afterRecords s).report.consume = s.report.consume := by
  unfold afterRecords enterProduce enterDropped
  split <;> rw [enterRequest_report] <;> rfl

theorem writerNext_consume (s : State) : (writerNext s).report.consume = s.report.consume := writerBegin_consume _

theorem writerDone_consume (s : State) : (writerDone s).report.consume = s.report.consume := by
  unfold writerDone
  split
  · rfl
  · unfold enterStartProduce
    rw [enterRequest_report]
    rfl
  · exact writerBegin_consume _
  · refine (apply_ite (fun t : State => t.report.consume) _ _ _).trans ?_
    rw [enterRecord_consume, afterRecords_consume, ite_self]
  · unfold enterProduce
    rw [enterRequest_report]
    rfl
  · exact writerNext_consume _

theorem writerFailed_consume (s : State) : (writerFailed s).report.consume = s.report.consume := by
  unfold writerFailed
  split
  · rfl
  · unfold enterStartProduce
    rw [enterRequest_report]
    rfl
  · exact writerBegin_consume _
  · exact writerNext_consume _
  · exact writerNext_consume _
  · exact writerNext_consume _

/-! ## The writer's steps, by its phase -/

section Steps
variable {s : State} (free : s.requesterBusy .report = false)
include free

theorem writerDone_startDropped (phase : s.report.phase = .startDropped) :
    Writes (writerDone s) { s.report with phase := .startProduce } (s.headerWrite 0 0) := by
  unfold writerDone
  rw [phase]
  exact enterStartProduce_writes free

theorem writerDone_startProduce (phase : s.report.phase = .startProduce) : Begins s (writerDone s) s.report := by
  have begins := writerBegin_begins (s := s.setReport { s.report with phase := .idle }) free rfl
  unfold writerDone
  rw [phase]
  exact ⟨begins.report, begins.entered⟩

variable {r : Report} {rs : List Report} (staging : s.report.staging = r :: rs)
include staging

theorem writerDone_record {i : Nat} (phase : s.report.phase = .record i) (more : i + 1 < r.records) :
    Writes (writerDone s) { s.report with phase := .record (i + 1) } (s.recordWrite s.report.produce (i + 1) r) := by
  unfold writerDone
  rw [phase, staging]
  dsimp only
  rw [if_pos more]
  exact enterRecord_writes free staging _

omit free in
theorem writerDone_lastRecord {i : Nat} (phase : s.report.phase = .record i) (last : ¬ i + 1 < r.records) :
    writerDone s = afterRecords s := by
  unfold writerDone
  rw [phase, staging]
  dsimp only
  rw [if_neg last]

theorem writerDone_produceNext {i : Nat} (phase : s.report.phase = .record i) (last : ¬ i + 1 < r.records)
    (same : s.report.dropped = s.report.lastDropped) :
    Writes (writerDone s) { s.report with phase := .produce }
      (s.headerWrite 0 (BitVec.ofNat 32 ((s.report.produce + r.records) % s.report.size))) := by
  rw [writerDone_lastRecord staging phase last, ← nextProduce_cons staging]
  unfold afterRecords
  rw [if_pos same]
  exact enterProduce_writes free

theorem writerDone_droppedNext {i : Nat} (phase : s.report.phase = .record i) (last : ¬ i + 1 < r.records)
    (other : s.report.dropped ≠ s.report.lastDropped) :
    Writes (writerDone s) { s.report with phase := .dropped s.report.dropped }
      (s.headerWrite 2 s.report.dropped) := by
  rw [writerDone_lastRecord staging phase last]
  unfold afterRecords
  rw [if_neg other]
  exact enterDropped_writes free

theorem writerDone_dropped {n : Counter} (phase : s.report.phase = .dropped n) :
    Writes (writerDone s) { s.report with phase := .produce, lastDropped := n }
      (s.headerWrite 0 (BitVec.ofNat 32 ((s.report.produce + r.records) % s.report.size))) := by
  have writes := enterProduce_writes (s := s.setReport { s.report with lastDropped := n }) free
  rw [← nextProduce_cons staging]
  unfold writerDone
  rw [phase]
  exact ⟨writes.report, writes.entered⟩

theorem writerDone_produce (phase : s.report.phase = .produce) :
    Begins s (writerDone s)
      { s.report with staging := rs, produce := (s.report.produce + r.records) % s.report.size } := by
  have begins := writerNext_begins (s := s.setReport { s.report with produce := s.report.nextProduce }) free staging
  rw [← nextProduce_cons staging]
  unfold writerDone
  rw [phase]
  exact ⟨begins.report, begins.entered⟩

omit staging in
theorem writerFailed_startDropped (phase : s.report.phase = .startDropped) :
    Writes (writerFailed s) { s.report with phase := .startProduce, dropped := s.report.dropped + 1 }
      (s.headerWrite 0 0) := by
  have writes := enterStartProduce_writes (s := s.setReport { s.report with dropped := s.report.dropped + 1 }) free
  unfold writerFailed
  rw [phase]
  exact ⟨writes.report, writes.entered⟩

omit staging in
theorem writerFailed_startProduce (phase : s.report.phase = .startProduce) :
    Begins s (writerFailed s) { s.report with dropped := s.report.dropped + 1 } := by
  have begins := writerBegin_begins
    (s := s.setReport { s.report with dropped := s.report.dropped + 1, phase := .idle }) free rfl
  unfold writerFailed
  rw [phase]
  exact ⟨begins.report, begins.entered⟩

/-- R31: the report whose access found no response is dropped and counted. -/
theorem writerFailed_report (writing : (∃ i, s.report.phase = .record i) ∨ (∃ n, s.report.phase = .dropped n) ∨
    s.report.phase = .produce) :
    Begins s (writerFailed s) { s.report with staging := rs, dropped := s.report.dropped + 1 } := by
  have begins := writerNext_begins (s := s.setReport { s.report with dropped := s.report.dropped + 1 }) free staging
  have next : writerFailed s = writerNext (s.setReport { s.report with dropped := s.report.dropped + 1 }) := by
    unfold writerFailed
    rcases writing with ⟨i, phase⟩ | ⟨n, phase⟩ | phase <;> rw [phase]
  rw [next]
  exact ⟨begins.report, begins.entered⟩

end Steps

/-- What the end of the writer's access leaves, from what its step leaves. -/
structure WriterEnds (s t u : State) : Prop where
  frame : u.lanes = s.lanes ∧ u.asm = s.asm ∧ u.timer = s.timer ∧ u.unit = s.unit ∧ u.pending = s.pending ∧
    u.report.consume = s.report.consume
  report : u.report = t.report
  entered : ∀ q ∈ t.engine.requests, u.Entered q

theorem WriterEnds.writes {s t u : State} (W : WriterEnds s t u) {r : ReportUnit} {q : Request} (h : Writes t r q) :
    u.report = r ∧ u.Entered q := ⟨W.report.trans h.report, W.entered q h.entered⟩

theorem WriterEnds.begins {s t u : State} (W : WriterEnds s t u) {r : ReportUnit}
    (h : Begins (s.setPortM none) t r) :
    u.report = r.begun ∧ ∀ y ys, r.begun.staging = y :: ys → u.Entered (s.recordWrite r.produce 0 y) :=
  ⟨W.report.trans h.report, fun y ys first => W.entered _ (h.entered y ys first)⟩

theorem EngineEnds.writerEnds {m : MAccess} {s t : State} (E : EngineEnds .report m s) {e : Ending}
    (done : engineEnd .report m e (s.setPortM none) = t) (shared : SharedOnly (s.setPortM none) t)
    (consume : t.report.consume = s.report.consume) : WriterEnds s t (endAccess m e s) := by
  have settled := E.settled e
  have entered := fun q => E.entered (q := q) e
  rw [done] at settled entered
  have running : t.unit.partState ≠ .stopping := by
    rw [shared.unit, State.setPortM_unit, E.running]
    exact fun stopping => PartState.noConfusion stopping
  exact ⟨⟨settled.lanes.trans shared.lanes, settled.asm.trans shared.asm, settled.timer.trans shared.timer,
    (settled.unit running).1.trans shared.unit, settled.pending.trans shared.pending,
    (congrArg (·.consume) settled.report).trans consume⟩, settled.report, entered⟩

/-- Settles O25. -/
theorem reportWriterAdvances : Obligations.ReportWriterAdvances := by
  intro s m E absent r0 frame begins
  have free : (s.setPortM none).requesterBusy .report = false := free_requester rfl absent
  have done : engineEnd .report m (.answered (.done [])) (s.setPortM none) =
      writerDone (s.setPortM none) := by
    unfold engineEnd
    dsimp only
    rw [E.wanted]
    rfl
  have failed : engineEnd .report m .expired (s.setPortM none) = writerFailed (s.setPortM none) := by
    unfold engineEnd
    dsimp only
    rw [E.wanted]
    rfl
  have W := E.writerEnds done (writerDone_shared _) (writerDone_consume _)
  have F := E.writerEnds failed (writerFailed_shared _) (writerFailed_consume _)
  have ended : exec .reportAccessEnd s = .next (endAccess m (.answered (.done [])) s) :=
    (exec_of_wf rfl s).trans (congrArg _
      (answerIf_owner (p := fun o => o == .engine .report) E.onPortM (by rw [E.owner]; rfl)))
  refine ⟨⟨_, ended, W.frame, fun phase => W.writes (writerDone_startDropped free phase),
      fun phase => W.begins (writerDone_startProduce free phase), fun r rs staging => ⟨?_, ?_, ?_, ?_, ?_⟩⟩,
    _, exec_expiry E.onPortM, F.frame, fun phase => F.writes (writerFailed_startDropped free phase),
    fun phase => F.begins (writerFailed_startProduce free phase),
    fun r rs staging writing => F.begins (writerFailed_report free staging writing)⟩
  · exact fun i phase more => W.writes (writerDone_record free staging phase more)
  · exact fun i phase last same => W.writes (writerDone_produceNext free staging phase last same)
  · exact fun i phase last other => W.writes (writerDone_droppedNext free staging phase last other)
  · exact fun n phase => W.writes (writerDone_dropped free staging phase)
  · exact fun phase => W.begins (writerDone_produce free staging phase)

end Sys2Proof.Machine
end

section
/-!
O27, O28 and O51: what the burst of a directive carries out, and the directives that change nothing.
-/
namespace Sys2Proof.Machine

/-! ## A directive carried out -/

/-- Settles O27. -/
theorem recordsAreProcessedInOneBurst : Obligations.RecordsAreProcessedInOneBurst :=
  fun _ _ _ ws _ _ record wf ready => ⟨_, _, _, record_exec record wf ready, afterBurst_recorded ws ready⟩

/-- The burst of a record for the Command Unit leaves what the unit's processing `p` leaves. -/
structure Carried (slot : Nat) (w : Window) (ws : List Word) (p : Processed) (s t : State) : Prop where
  recorded : Recorded .command slot w ws p.disp p.isStop s t
  lanes : t.lanes = p.state.lanes
  report : t.report = p.state.report
  soft : t.unit.softOverride = p.state.unit.softOverride
  entered : ∀ q ∈ p.state.engine.requests, q ∈ t.engine.requests

section Bursts
variable {i : Instr} {slot : Nat} {ws : List Word} {w : Window} {s : State}

theorem command_carried (record : recordOf i = some (.command, slot, ws)) (wf : i.wf = true)
    (ready : Ready .command slot w s) :
    ∃ t, exec i s = .next t ∧
      Carried slot w ws (processDirective (burstRecord slot ws s) (grantedBurst w slot s)) s t := by
  obtain ⟨lanes, report, soft⟩ := afterBurst_block .command slot w ws s
  exact ⟨_, record_exec record wf ready, afterBurst_recorded ws ready, lanes, report, soft,
    fun _ mem => enterRequest_keeps mem⟩

/-- A directive that leaves the part as it is. -/
theorem Carried.untouched {d : Disposition} {t : State}
    (C : Carried slot w ws { state := grantedBurst w slot s, disp := d, isStop := false } s t) :
    Untouched s t ∧ Recorded .command slot w ws d false s t :=
  ⟨⟨C.lanes, C.report, C.soft⟩, C.recorded⟩

/-- R46: a wrong check value. -/
theorem processDirective_badCheck (wrong : ¬ rightCheck ws) (t : State) :
    processDirective (burstRecord slot ws s) t = { state := t, disp := disp .badCheck 0 false, isStop := false } := by
  have fails : checkPasses (burstRecord slot ws s) = false := by
    rw [checkPasses_burst]
    exact beq_eq_false_iff_ne.2 wrong
  unfold processDirective
  rw [fails]
  rfl

/-- The lane of a directive (R170 test 1), read from the burst's words as the host wrote them. -/
theorem directiveLane_burst (w : Window) :
    directiveLane (burstRecord slot ws s).words (grantedBurst w slot s) =
      match laneOfNat (field (wordAt ws 1) 0 8) with
      | some l => if (s.windowOf .ingest (some l)).isSome then some l else none
      | none => none := by
  unfold directiveLane
  rw [burst_word slot ws s (by decide)]
  rfl

theorem laneOfNat_some {n : Nat} {l : LaneId} : laneOfNat n = some l ↔ n = laneNum l := by
  constructor
  · intro lane
    unfold laneOfNat at lane
    split at lane <;> cases lane <;> rfl
  · rintro rfl
    cases l <;> rfl

theorem Directed.lane_found {lane : BitVec 8} {l : LaneId} (D : Directed slot w lane l s)
    (word : field (wordAt ws 1) 0 8 = lane.toNat) :
    directiveLane (burstRecord slot ws s).words (grantedBurst w slot s) = some l := by
  rw [directiveLane_burst, laneOfNat_some.2 (word.trans D.lane)]
  exact if_pos D.ingest

/-- The directives that name a lane. -/
def DirectiveKind.ofLane (k : DirectiveKind) : Prop := k ≠ .override ∧ k ≠ .stop

theorem carryOut_lane {k : DirectiveKind} (ofLane : k.ofLane) (ws : List Word) (s : State) :
    carryOut k ws s =
      match directiveLane ws s with
      | some l => laneDirective k ws l s
      | none => refuseWith 1 s := by
  obtain ⟨not_override, not_stop⟩ := ofLane
  unfold carryOut
  split
  · exact absurd rfl not_override
  · exact absurd rfl not_stop
  · rfl

end Bursts

section Directives
variable {i : Instr} {k : DirectiveKind} {w1 w3 : Word} {xs : List Word} {check : Half} {slot : Nat} {w : Window}
  {s : State}

theorem directive_carried (record : recordOf i = some (.command, slot, directiveWords k w1 w3 xs check))
    (wf : i.wf = true) (ready : Ready .command slot w s) (short : xs.length ≤ 10)
    (right : check = recordCheck (directiveWords k w1 w3 xs check)) :
    ∃ t, exec i s = .next t ∧
      Carried slot w (directiveWords k w1 w3 xs check)
        (carryOut k (burstRecord slot (directiveWords k w1 w3 xs check) s).words (grantedBurst w slot s)) s t := by
  have carried := command_carried record wf ready
  rwa [show processDirective _ _ = _ from directive_processed slot s (grantedBurst w slot s) short right.symm] at carried

theorem lane_directive_carried {lane : BitVec 8} {l : LaneId}
    (record : recordOf i = some (.command, slot, directiveWords k w1 w3 xs check)) (wf : i.wf = true)
    (D : Directed slot w lane l s) (ofLane : k.ofLane) (short : xs.length ≤ 10)
    (right : check = recordCheck (directiveWords k w1 w3 xs check)) (word : field w1 0 8 = lane.toNat) :
    ∃ t, exec i s = .next t ∧
      Carried slot w (directiveWords k w1 w3 xs check)
        (laneDirective k (burstRecord slot (directiveWords k w1 w3 xs check) s).words l (grantedBurst w slot s)) s t := by
  have carried := directive_carried record wf D.ready short right
  rwa [carryOut_lane ofLane, D.lane_found (ws := directiveWords k w1 w3 xs check) word] at carried

/-- A directive that its lane accepts does the lane's work `f`. -/
theorem Carried.accepted {ws : List Word} {l : LaneId} {f : LaneCtx → Work → Work} {t : State}
    (C : Carried slot w ws (acceptState (runLane l f (grantedBurst w slot s))) s t) :
    Recorded .command slot w ws directiveAccepted false s t ∧ t.lanes = s.lanes.set l (laneWork l f s).lane ∧
      t.unit.softOverride = s.unit.softOverride ∧ ((laneWork l f s).out = [] → t.report = s.report) := by
  refine ⟨C.recorded, C.lanes.trans (runLane_lanes _ _ _), C.soft.trans ?_, fun quiet => C.report.trans ?_⟩
  · show (runLane l f _).unit.softOverride = _
    rw [runLane_unit]
    rfl
  · show (runLane l f _).report = _
    rw [runLane_quiet (show (laneWork l f (grantedBurst w slot s)).out = [] from quiet)]
    rfl

end Directives

/-! ## Refused directives -/

/-- The record of a directive other than OVERRIDE and STOP names a lane. -/
theorem recordOf_directive {i : Instr} {slot : Nat} {ws : List Word} (record : recordOf i = some (.command, slot, ws))
    (not_override : ∀ on check, i ≠ .override slot on check) (not_stop : ∀ check, i ≠ .stop slot check) :
    ∃ k w1 w3 xs check, ws = directiveWords k w1 w3 xs check ∧ xs.length ≤ 10 ∧ k.ofLane := by
  cases i <;> cases record
  case override on check => exact absurd rfl (not_override on check)
  case stop check => exact absurd rfl (not_stop check)
  all_goals exact ⟨_, _, _, _, _, rfl, Nat.le_of_ble_eq_true rfl, DirectiveKind.noConfusion, DirectiveKind.noConfusion⟩

/-- Table 11-3: a LANE-SET whose D is 0, or less than its L limit, is out of range. -/
theorem laneParams_refused {p : LaneParams} (h : p.d = 0 ∨ p.d < p.lmax) : p.ok = false := by
  unfold LaneParams.ok inRange
  rcases h with h | h
  · simp [h]
  · simp [Nat.not_le.2 h]

theorem laneSetWord_lane (lane : BitVec 8) (enable : Bool) :
    field (mkWord [lane.toNat, place (bit enable) 16]) 0 8 = lane.toNat := by
  have small := lane.isLt
  have flag := bit_le enable
  rw [field_mkWord _ _ (by simp only [place_16, List.sum_cons, List.sum_nil]; omega)]
  simp only [place_16, List.sum_cons, List.sum_nil]
  omega

/-- The record of a LANE-SET. -/
theorem laneSet_carried {enable : Bool} {slot : Nat} {p : LaneSetFields} {w : Window} {l : LaneId} {s : State}
    (D : Directed slot w p.lane l s) (right : p.check = recordCheck (laneSetWords enable p)) :
    ∃ t, exec (if enable then .laneSetEnable slot p else .laneSetDisable slot p) s = .next t ∧
      Carried slot w (laneSetWords enable p)
        (laneDirective .laneSet (burstRecord slot (laneSetWords enable p) s).words l (grantedBurst w slot s)) s t := by
  have ofLane : DirectiveKind.laneSet.ofLane := ⟨DirectiveKind.noConfusion, DirectiveKind.noConfusion⟩
  cases enable <;>
    exact lane_directive_carried rfl D.slotOk D ofLane (Nat.le_of_ble_eq_true rfl) right (laneSetWord_lane _ _)

/-- Settles O28. -/
theorem refusedDirectivesChangeNothing : Obligations.RefusedDirectivesChangeNothing := by
  refine ⟨fun i slot ws w s record wf ready wrong => ?_,
    fun i slot ws w s record wf ready right not_override not_stop no_window => ?_,
    fun enable slot p w l s D right outside => ?_⟩
  · obtain ⟨t, ended, C⟩ := command_carried record wf ready
    rw [processDirective_badCheck wrong] at C
    exact ⟨t, ended, C.untouched⟩
  · obtain ⟨k, w1, w3, xs, check, rfl, short, ofLane⟩ := recordOf_directive record not_override not_stop
    have right' : check = recordCheck (directiveWords k w1 w3 xs check) := by
      have value := right
      unfold rightCheck at value
      rw [directiveWords_15 k w1 w3 check short, lowHalf_mkWord] at value
      exact value.symm
    obtain ⟨t, ended, C⟩ := directive_carried record wf ready short right'
    have no_lane : directiveLane (burstRecord slot (directiveWords k w1 w3 xs check) s).words (grantedBurst w slot s) =
        none := by
      rw [directiveLane_burst]
      split
      · rename_i l lane
        rw [no_window l (laneOfNat_some.1 lane)]
        rfl
      · rfl
    rw [carryOut_lane ofLane, no_lane] at C
    exact ⟨t, ended, C.untouched⟩
  · obtain ⟨t, ended, C⟩ := laneSet_carried D right
    have refused : (readLaneSet (burstRecord slot (laneSetWords enable p) s).words).ok = false := by
      rw [readLaneSet_words]
      refine laneParams_refused (outside.imp_left fun zero => ?_)
      exact congrArg BitVec.toNat zero
    unfold laneDirective at C
    dsimp only at C
    rw [refused] at C
    exact ⟨t, ended, C.untouched⟩

/-- Settles O51. -/
theorem stopIsAccepted : Obligations.StopIsAccepted := by
  intro slot check w s ready slotOk ws right
  obtain ⟨t, ended, C⟩ := directive_carried (i := .stop slot check) rfl slotOk ready (Nat.zero_le _) right
  have unit := C.recorded.unit
  exact ⟨t, ended, ⟨C.lanes, C.report, C.soft⟩, by rw [unit]; exact ready.running, C.recorded⟩

end Sys2Proof.Machine
end

section
/-!
O29, O30, O33, O34, O36, O39 and O40: ingest records. A record in sequence of a pen that is not BARRED leaves what its
kind's effect leaves, when the evaluation of R52 step 6 makes nothing of it.
-/
namespace Sys2Proof.Machine

/-! ## Records that their lane does not process (R45 tests 1 to 5) -/

section Unprocessed
variable {i : Instr} {l : LaneId} {slot : Nat} {ws : List Word} {w : Window} {s : State}

/-- An ingest record that leaves its lane's work as it found it. -/
theorem ingest_untouched (record : recordOf i = some (.lane l, slot, ws)) (wf : i.wf = true)
    (ready : Ready (.lane l) slot w s) {d : Disposition}
    (idle : ingestWork l slot ws s = ({ lane := s.lanes.get l, out := [] }, d)) :
    ∃ t, exec i s = .next t ∧ Untouched s t ∧ Recorded (.lane l) slot w ws d false s t := by
  obtain ⟨t, ended, recorded, lanes, soft, quiet⟩ := ingest_burst record wf ready
  rw [idle] at recorded lanes quiet
  rw [Quad.set_get] at lanes
  exact ⟨t, ended, ⟨lanes, quiet rfl, soft⟩, recorded⟩

theorem checkPasses_right (right : rightCheck ws) : checkPasses (burstRecord slot ws s) = true := by
  rw [checkPasses_burst]
  exact beq_iff_eq.2 right

theorem checkPasses_wrong (wrong : ¬ rightCheck ws) : checkPasses (burstRecord slot ws s) = false := by
  rw [checkPasses_burst]
  exact beq_eq_false_iff_ne.2 wrong

theorem ingestWords_size (kind : IngestKind) (r : IngestFields) :
    (ingestWords kind r).length = r.text.length + 6 := by
  unfold ingestWords
  simp

/-- The text of a record whose burst has sixteen words. -/
theorem ingest_text {kind : IngestKind} {r : IngestFields}
    (record : recordOf i = some (.lane l, slot, ingestWords kind r)) (wf : i.wf = true) : r.text.length = 10 := by
  have length := recordOf_length record wf
  rw [ingestWords_size] at length
  exact Nat.add_right_cancel length

end Unprocessed

/-- R45 test 5: a record whose pen is in neither slot. -/
theorem processIngest_stranger {c : LaneCtx} {x : Rec} {w : Work} {kind : IngestKind} (on : w.lane.hold.state ≠ .off)
    (passes : checkPasses x = true) (form : formFailure (readIngest x) = none)
    (of_kind : (readIngest x).kind = some kind) (stranger : w.lane.pens.slotOf (readIngest x).pen = none) :
    processIngest c x w = (w, disp .stranger 0 false) := by
  unfold processIngest
  rw [if_neg on]
  unfold classify
  dsimp only
  rw [passes, form, of_kind, stranger]
  rfl

/-- R45 test 2, R52 step 1: a record with a wrong check value, of a pen in slot `k`. -/
theorem processIngest_badCheck {c : LaneCtx} {x : Rec} {w : Work} {k : SlotId} (on : w.lane.hold.state ≠ .off)
    (fails : checkPasses x = false) (pen : w.lane.pens.slotOf (readIngest x).pen = some k) :
    processIngest c x w = monitored c k w (badRecord c k w, disp .badCheck 0 false) := by
  unfold processIngest
  rw [if_neg on]
  unfold classify
  dsimp only
  rw [fails, pen]
  rfl

/-- Settles O29. -/
theorem laneOffAndStrangerChangeNothing : Obligations.LaneOffAndStrangerChangeNothing := by
  intro i l slot ws w s record wf ready
  refine ⟨_, record_exec record wf ready, fun off => ?_, ?_⟩
  · obtain ⟨t, ended, done⟩ := ingest_untouched record wf ready (d := disp .laneOff 0 false) (if_pos off)
    cases (record_exec record wf ready).symm.trans ended
    exact done
  · rintro kind r rfl on right form stranger
    have text := ingest_text record wf
    have read := readIngest_words slot kind r s text
    have passes := checkPasses_right (slot := slot) (s := s) right
    have idle : ingestWork l slot (ingestWords kind r) s = ({ lane := s.lanes.get l, out := [] }, disp .stranger 0 false) :=
      processIngest_stranger on passes (formFailure_good form text) (by rw [read]) (by rw [read]; exact stranger)
    obtain ⟨t, ended, done⟩ := ingest_untouched record wf ready idle
    cases (record_exec record wf ready).symm.trans ended
    exact done

/-! ## A bad check value (R52 step 1) -/

/-- R54: a charge that leaves the health as it was makes no report. -/
theorem setFault_quiet {c : LaneCtx} {k : SlotId} {n : Nat} {w : Work} (cause : HealthCause)
    (same : healthOf n = (w.slot k).health) :
    setFault c k n cause w = { w with lane := w.lane.withSlot k { w.slot k with fault := n } } := by
  have run : (if healthOf n = .barred ∧ (w.slot k).health ≠ .barred then 0 else (w.slot k).keepRun) =
      (w.slot k).keepRun := if_neg fun h => h.2 (same ▸ h.1)
  unfold setFault
  dsimp only
  rw [run, setSlot_eq]
  unfold reportHealth
  dsimp only
  rw [withSlot_slot]
  exact if_pos same

/-- R54: the fault count after a bad record. -/
def chargedFault (n : Nat) : Nat := if healthOf n = .barred then n else min 200 (n + 5)

theorem badRecord_quiet {c : LaneCtx} {k : SlotId} {w : Work}
    (same : healthOf (chargedFault (w.slot k).fault) = healthOf (w.slot k).fault) :
    badRecord c k w =
      { w with lane := w.lane.withSlot k { w.slot k with fault := chargedFault (w.slot k).fault, keepRun := 0 } } := by
  have charged : chargeBad c k w =
      { w with lane := w.lane.withSlot k { w.slot k with fault := chargedFault (w.slot k).fault } } := by
    unfold chargeBad
    unfold chargedFault at same ⊢
    split
    · rename_i barred
      rw [if_pos (show healthOf (w.slot k).fault = .barred from barred)]
      have kept : w.setSlot k (w.slot k) = w := by
        show { w with lane := { w.lane with pens := { w.lane.pens with slots := _ } } } = w
        unfold Work.slot
        cases k <;> rfl
      exact kept.symm
    · rename_i standing
      have standing' : ¬ healthOf (w.slot k).fault = .barred := standing
      rw [if_neg standing'] at same ⊢
      exact setFault_quiet .record same
  unfold badRecord
  dsimp only
  rw [charged, withSlot_slot, setSlot_eq]
  dsimp only
  rw [withSlot_withSlot]

/-- R52 step 6: no evaluation when the one slot that was changed has the health it had. -/
theorem evaluateChanged_slot {c : LaneCtx} {before after : Work} {k : SlotId} {p : PenSlot}
    (slots : after.lane.pens.slots = before.lane.pens.slots.set k p)
    (same : healthOf p.fault = healthOf (before.slot k).fault) : evaluateChanged c before after = after := by
  refine evaluateChanged_same fun j => ?_
  unfold Work.slot at *
  rw [slots]
  unfold PenSlot.health
  cases k <;> cases j <;> first | exact same | rfl

/-- Settles O30. -/
theorem badCheckIsCharged : Obligations.BadCheckIsCharged := by
  intro i l slot kind r w k s record wf ready wrong on pen p n same
  have text := ingest_text record wf
  have read := readIngest_words slot kind r s text
  have fails := checkPasses_wrong (slot := slot) (s := s) wrong
  let x : Work := { lane := s.lanes.get l, out := [] }
  have charged : badRecord (s.laneCtx l) k x = { x with lane := x.lane.withSlot k { p with fault := n, keepRun := 0 } } :=
    badRecord_quiet (w := x) same
  have work : ingestWork l slot (ingestWords kind r) s =
      ({ x with lane := x.lane.withSlot k { p with fault := n, keepRun := 0 } },
        { outcome := .badCheck, detail := 0, gap := false, health := some (healthOf n) }) := by
    refine (processIngest_badCheck (w := x) on fails (by rw [read]; exact pen)).trans ?_
    rw [charged]
    unfold monitored
    dsimp only
    rw [evaluateChanged_slot (before := x) rfl same]
    unfold withHealth
    rw [withSlot_slot]
    rfl
  obtain ⟨t, ended, recorded, lanes, -, quiet⟩ := ingest_burst record wf ready
  rw [work] at recorded lanes quiet
  exact ⟨t, ended, quiet rfl, lanes, recorded⟩

/-! ## A record in sequence -/

section InOrder
variable {kind : IngestKind} {i : Instr} {l : LaneId} {slot : Nat} {w : Window} {k : SlotId} {r : IngestFields}
  {s : State}

/-- The work of a good record's effect: the lane with the slot charged, and the reports so far. -/
def goodWork (l : LaneId) (k : SlotId) (r : IngestFields) (s : State) (out : List Effect) : Work :=
  { lane := (s.lanes.get l).withSlot k (((s.lanes.get l).pens.slots.get k).afterGood s.timer.f r.seq), out := out }

/-- The record as its lane reads it. -/
def readBurst (kind : IngestKind) (slot : Nat) (r : IngestFields) (s : State) : IngestRecord :=
  readIngest (burstRecord slot (ingestWords kind r) s)

/-- What the burst leaves when the work `e` and the disposition `d` are what the record's processing gives. -/
structure Effected (l : LaneId) (slot : Nat) (w : Window) (ws : List Word) (e : Work) (d : Disposition)
    (s t : State) : Prop where
  recorded : Recorded (.lane l) slot w ws d false s t
  lanes : t.lanes = s.lanes.set l e.lane
  report : e.out = [] → t.report = s.report

theorem Effected.lane {ws : List Word} {e : Work} {d : Disposition} {t : State}
    (E : Effected l slot w ws e d s t) : t.lanes.get l = e.lane := by
  rw [E.lanes, Quad.get_set_same]

theorem Effected.other {ws : List Word} {e : Work} {d : Disposition} {t : State}
    (E : Effected l slot w ws e d s t) (m : LaneId) (hm : m ≠ l) : t.lanes.get m = s.lanes.get m := by
  rw [E.lanes, Quad.get_set_other _ _ hm]

theorem ingest_effected {ws : List Word} (record : recordOf i = some (.lane l, slot, ws)) (wf : i.wf = true)
    (ready : Ready (.lane l) slot w s) {e : Work} {d : Disposition} (work : ingestWork l slot ws s = (e, d)) :
    ∃ t, exec i s = .next t ∧ Effected l slot w ws e d s t := by
  obtain ⟨t, ended, recorded, lanes, -, quiet⟩ := ingest_burst record wf ready
  rw [work] at recorded lanes quiet
  exact ⟨t, ended, recorded, lanes, quiet⟩

/-- R52: a record in sequence whose effect is `f` with the disposition `d`, when the evaluation that follows leaves what
`f` did. -/
theorem inOrder_effected (record : recordOf i = some (.lane l, slot, ingestWords kind r)) (wf : i.wf = true)
    (H : InOrder kind l slot w k r s) {f : Work → Work} {d : Disposition}
    (effect : ∀ out, recordEffect (s.laneCtx l) k kind (readBurst kind slot r s) false (goodWork l k r s out) =
      (f (goodWork l k r s out), d))
    (stays : ∀ out, evaluateChanged (s.laneCtx l) { lane := s.lanes.get l, out := [] } (f (goodWork l k r s out)) =
      f (goodWork l k r s out)) :
    ∃ t out, exec i s = .next t ∧ (((s.lanes.get l).pens.slots.get k).calm → out = []) ∧
      Effected l slot w (ingestWords kind r) (f (goodWork l k r s out)) (withHealth k (f (goodWork l k r s out)) d) s t := by
  obtain ⟨out, work, calm⟩ := inOrder_work H
  have work' : ingestWork l slot (ingestWords kind r) s =
      (f (goodWork l k r s out), withHealth k (f (goodWork l k r s out)) d) := by
    refine work.trans ?_
    show monitored _ _ _ (recordEffect _ _ _ (readBurst kind slot r s) _ (goodWork l k r s out)) = _
    rw [effect]
    unfold monitored
    dsimp only
    rw [stays]
  obtain ⟨t, ended, E⟩ := ingest_effected record wf H.heard.ready work'
  exact ⟨t, out, ended, calm, E⟩

/-- The same for an effect `e`, with no report, that leaves the slots as the good record did, when the health is as it
was. -/
theorem inOrder_calm (record : recordOf i = some (.lane l, slot, ingestWords kind r)) (wf : i.wf = true)
    (H : InOrder kind l slot w k r s) (calm : ((s.lanes.get l).pens.slots.get k).calm) {e : Work} {d : Disposition}
    (effect : recordEffect (s.laneCtx l) k kind (readBurst kind slot r s) false (goodWork l k r s []) = (e, d))
    (slots : e.lane.pens.slots = (goodWork l k r s []).lane.pens.slots) (quiet : e.out = []) :
    ∃ t, exec i s = .next t ∧ t.report = s.report ∧ t.lanes = s.lanes.set l e.lane ∧
      Recorded (.lane l) slot w (ingestWords kind r)
        { d with health := some (healthOf (((s.lanes.get l).pens.slots.get k).fault - 1)) } false s t := by
  obtain ⟨out, work, none⟩ := inOrder_work H
  cases none calm
  have stays : evaluateChanged (s.laneCtx l) { lane := s.lanes.get l, out := [] } e = e :=
    evaluateChanged_slot slots calm
  have health : (e.slot k).health = healthOf (((s.lanes.get l).pens.slots.get k).fault - 1) := by
    unfold Work.slot
    rw [slots]
    show (((s.lanes.get l).pens.slots.set k _).get k).health = _
    rw [Pair.get_set_same]
    rfl
  have work' : ingestWork l slot (ingestWords kind r) s =
      (e, { d with health := some (healthOf (((s.lanes.get l).pens.slots.get k).fault - 1)) }) := by
    refine work.trans ?_
    show monitored _ _ _ (recordEffect _ _ _ (readBurst kind slot r s) _ (goodWork l k r s [])) = _
    rw [effect]
    unfold monitored withHealth
    dsimp only
    rw [stays, health]
  obtain ⟨t, ended, E⟩ := ingest_effected record wf H.heard.ready work'
  exact ⟨t, ended, E.report quiet, E.lanes, E.recorded⟩

theorem goodWork_slot (l : LaneId) (k : SlotId) (r : IngestFields) (s : State) (out : List Effect) :
    (goodWork l k r s out).slot k = ((s.lanes.get l).pens.slots.get k).afterGood s.timer.f r.seq :=
  withSlot_slot { lane := s.lanes.get l, out := out } k _

end InOrder

/-- Settles O39. -/
theorem keepaliveIsHeard : Obligations.KeepaliveIsHeard :=
  fun l slot r _ _ _ H calm => inOrder_calm (i := .keepalive l slot r) rfl H.heard.wf H calm rfl rfl rfl

/-! ## OFFER (R59) -/

/-- The other pen of a posted floor does not have it. -/
theorem Lane.FloorOk.other {x : Lane} (h : x.FloorOk) {k : SlotId} (floor : (x.pens.slots.get k).role = .floor) :
    (x.pens.slots.get (otherSlot k)).role ≠ .floor :=
  fun both => otherSlot_ne k (h.posted.single _ _ both floor)

theorem Lane.FloorOk.not_vacant {x : Lane} (h : x.FloorOk) {k : SlotId} (floor : (x.pens.slots.get k).role = .floor) :
    x.pens.floor ≠ .vacant := fun vacant => h.posted.vacant.1 vacant k floor

/-- R62: a record of the floor pen that leaves roles, faults and marks as a good record does costs it nothing. -/
theorem evaluateChanged_goodFloor {l : LaneId} {k : SlotId} {r : IngestFields} {s : State} {e : Work}
    (ok : (s.lanes.get l).FloorOk) (floor : ((s.lanes.get l).pens.slots.get k).role = .floor)
    (unbarred : ((s.lanes.get l).pens.slots.get k).fault < 200)
    (slot : ∃ a, e.slot k =
      { ((s.lanes.get l).pens.slots.get k).afterGood s.timer.f r.seq with lastAdmitted := a })
    (other : e.slot (otherSlot k) = (s.lanes.get l).pens.slots.get (otherSlot k)) :
    evaluateChanged (s.laneCtx l) { lane := s.lanes.get l, out := [] } e = e := by
  obtain ⟨a, slot⟩ := slot
  refine evaluateChanged_floor (k := k) (floorSlot_some ?_ ?_) (by rw [slot]; rfl) (by rw [slot]; rfl) unbarred
    (by rw [other]; rfl)
  · exact (congrArg (·.role) slot).trans floor
  · exact fun both => ok.other floor ((congrArg (·.role) other).symm.trans both)

/-- A record in sequence of the floor pen, whose effect `f` leaves the roles, the faults and the marks of the slots as the
good record did. -/
theorem inOrder_floor {kind : IngestKind} {i : Instr} {l : LaneId} {slot : Nat} {w : Window} {k : SlotId}
    {r : IngestFields} {s : State} (record : recordOf i = some (.lane l, slot, ingestWords kind r)) (wf : i.wf = true)
    (H : InOrder kind l slot w k r s) (ok : (s.lanes.get l).FloorOk)
    (floor : ((s.lanes.get l).pens.slots.get k).role = .floor) {f : Work → Work} {d : Disposition}
    (effect : ∀ out, recordEffect (s.laneCtx l) k kind (readBurst kind slot r s) false (goodWork l k r s out) =
      (f (goodWork l k r s out), d))
    (here : ∀ out, ∃ a, (f (goodWork l k r s out)).slot k =
      { ((s.lanes.get l).pens.slots.get k).afterGood s.timer.f r.seq with lastAdmitted := a })
    (other : ∀ out, (f (goodWork l k r s out)).slot (otherSlot k) = (s.lanes.get l).pens.slots.get (otherSlot k)) :
    ∃ t out, exec i s = .next t ∧ (((s.lanes.get l).pens.slots.get k).calm → out = []) ∧
      Effected l slot w (ingestWords kind r) (f (goodWork l k r s out))
        { d with health := some (healthOf (((s.lanes.get l).pens.slots.get k).fault - 1)) } s t := by
  obtain ⟨t, out, ended, calm, E⟩ := inOrder_effected record wf H effect
    fun out => evaluateChanged_goodFloor ok floor H.unbarred (here out) (other out)
  refine ⟨t, out, ended, calm, ?_⟩
  obtain ⟨a, marks⟩ := here out
  unfold withHealth at E
  rw [marks] at E
  exact E

/-- R59: an OFFER of the floor pen. -/
theorem offerEffect_held {c : LaneCtx} {k : SlotId} {w : Work} (floor : (w.slot k).role = .floor)
    (held : w.lane.pens.floor ≠ .vacant) :
    offerEffect c k w =
      some (w.setPens { w.lane.pens with floor := .handover (c.now + BitVec.ofNat 32 w.lane.pens.takeWindow) }) := by
  unfold offerEffect
  dsimp only
  rw [if_pos floor]
  cases state : w.lane.pens.floor with
  | vacant => exact absurd state held
  | steady => rfl
  | handover d => rfl

theorem otherSlot_get_set {α : Type} (p : Pair α) (k : SlotId) (x : α) : (p.set k x).get (otherSlot k) = p.get (otherSlot k) := by
  cases k <;> rfl

/-- R59, R60: the floor state that a refused OFFER or TAKE gives as its detail. -/
theorem floor_code (f : FloorState) :
    f.code = match f with | .steady => 1 | .handover _ => 2 | .vacant => 3 := by cases f <;> rfl

/-- Settles O36. -/
theorem offerMakesHandover : Obligations.OfferMakesHandover := by
  intro l slot r w k s H x p ok
  have record : recordOf (.offer l slot r) = some (.lane l, slot, ingestWords .offer r) := rfl
  by_cases floor : p.role = .floor
  · let f : Work → Work := fun v =>
      v.setPens { v.lane.pens with floor := .handover (s.timer.f + BitVec.ofNat 32 v.lane.pens.takeWindow) }
    have effect (out : List Effect) : recordEffect (s.laneCtx l) k .offer (readBurst .offer slot r s) false
        (goodWork l k r s out) = (f (goodWork l k r s out), accepted false 1) := by
      have offered := offerEffect_held (c := s.laneCtx l) (w := goodWork l k r s out) (k := k)
        (by rw [goodWork_slot]; exact floor) (ok.not_vacant floor)
      unfold recordEffect
      dsimp only
      rw [offered]
      rfl
    obtain ⟨t, out, ended, calm, E⟩ := inOrder_floor record H.heard.wf H ok floor effect
      (fun out => ⟨p.lastAdmitted, goodWork_slot l k r s out⟩) (fun out => otherSlot_get_set _ _ _)
    exact ⟨t, ended, fun still => E.report (calm still), fun _ => ⟨E.lanes, E.recorded⟩,
      fun standby => by cases floor.symm.trans standby⟩
  · have refused (out : List Effect) : recordEffect (s.laneCtx l) k .offer (readBurst .offer slot r s) false
        (goodWork l k r s out) = (goodWork l k r s out, refusedRole (goodWork l k r s out) false) := by
      have none : offerEffect (s.laneCtx l) k (goodWork l k r s out) = none := by
        unfold offerEffect
        dsimp only
        rw [goodWork_slot]
        exact if_neg floor
      unfold recordEffect
      dsimp only
      rw [none]
    by_cases calm : p.calm
    · obtain ⟨t, ended, report, lanes, recorded⟩ := inOrder_calm record H.heard.wf H calm (refused []) rfl rfl
      refine ⟨t, ended, fun _ => report, fun holds => absurd holds floor, fun _ _ => ⟨lanes, ?_⟩⟩
      have detail : (refusedRole (goodWork l k r s []) false).detail =
          match x.pens.floor with | .steady => 1 | .handover _ => 2 | .vacant => 3 := floor_code _
      rw [detail] at recorded
      exact recorded
    · exact ⟨_, record_exec record H.heard.wf H.heard.ready, fun still => absurd still calm,
        fun holds => absurd holds floor, fun _ still => absurd still calm⟩

/-! ## The standby list (R66, R67, R69) -/

/-- R67: the list with room for one more: the oldest of 32 has left. -/
def standbyRoomed (es : List StandbyEntry) : List StandbyEntry := if 32 ≤ es.length then es.tail else es

/-- R67: a lane whose standby list holds `es`, after `n` entries were discarded. -/
def Lane.withStandby (x : Lane) (es : List StandbyEntry) (n : Nat) : Lane :=
  { x with
    pens := { x.pens with standby := es },
    hold := { x.hold with counters := { x.hold.counters with
      standbyDiscarded := x.hold.counters.standbyDiscarded + BitVec.ofNat 32 n } } }

/-- R67: room is made in the list. -/
def makeRoom (w : Work) : Work :=
  if w.lane.pens.standby.length < Config.standbyCap then w
  else (w.setPens { w.lane.pens with standby := w.lane.pens.standby.tail }).standbyDiscards 1

theorem makeRoom_eq (w : Work) :
    makeRoom w = { w with
      lane := w.lane.withStandby (standbyRoomed w.lane.pens.standby)
        (if 32 ≤ w.lane.pens.standby.length then 1 else 0) } := by
  unfold makeRoom standbyRoomed
  by_cases full : 32 ≤ w.lane.pens.standby.length
  · have excess : ¬ w.lane.pens.standby.length < Config.standbyCap := Nat.not_lt.2 full
    rw [if_neg excess, if_pos full, if_pos full]
    rfl
  · have room : w.lane.pens.standby.length < Config.standbyCap := Nat.not_le.1 full
    rw [if_pos room, if_neg full, if_neg full]
    unfold Lane.withStandby
    simp

theorem listToken_eq (k : SlotId) (r : IngestRecord) (w : Work) :
    listToken k r w =
      (giveTag (makeRoom w)).1.setPens { (giveTag (makeRoom w)).1.lane.pens with
        standby := (giveTag (makeRoom w)).1.lane.pens.standby ++
          [{ tag := (giveTag (makeRoom w)).2, slot := k, arrival := r.arrival, newline := r.newline,
             speaker := r.speaker, text := r.text }] } := rfl

/-- R66: a TOKEN of a STANDBY pen while the floor is held goes to the standby list. -/
theorem tokenEffect_standby {c : LaneCtx} {k : SlotId} {w : Work} (r : IngestRecord)
    (standby : (w.slot k).role ≠ .floor) (held : w.lane.pens.floor ≠ .vacant) :
    tokenEffect c k r w = (listToken k r w, 2) := by
  unfold tokenEffect
  rw [if_neg standby]
  cases state : w.lane.pens.floor with
  | vacant => exact absurd state held
  | steady => rfl
  | handover d => rfl

/-- Settles O33. -/
theorem tokenIsListedOrHeldOut : Obligations.TokenIsListedOrHeldOut := by
  constructor
  · intro l slot r w k s H x p standby calm held open_lane full kept
    have read := readIngest_words slot .token r s H.heard.text
    let u := goodWork l k r s []
    have effect : recordEffect (s.laneCtx l) k .token (readBurst .token slot r s) false u =
        (listToken k (readBurst .token slot r s) u, accepted false 2) := by
      have listed := tokenEffect_standby (c := s.laneCtx l) (w := u) (k := k) (readBurst .token slot r s)
        (by rw [goodWork_slot]; exact fun floor => Role.noConfusion (standby.symm.trans floor)) held
      unfold recordEffect
      dsimp only
      rw [if_neg (show ¬ u.lane.hold.state = .hardHeld from open_lane), listed]
    have roomed : makeRoom u = { u with lane := u.lane.withStandby kept (if full then 1 else 0) } := by
      refine (makeRoom_eq u).trans ?_
      show { u with
        lane := u.lane.withStandby (standbyRoomed x.pens.standby) (if 32 ≤ x.pens.standby.length then 1 else 0) } = _
      unfold standbyRoomed
      simp [full, kept]
    rw [listToken_eq, roomed] at effect
    obtain ⟨t, ended, report, lanes, recorded⟩ := inOrder_calm (i := .token l slot r) rfl H.heard.wf H calm effect rfl rfl
    refine ⟨t, _, ended, report, rfl, lanes.trans (congrArg _ ?_), recorded⟩
    unfold readBurst
    rw [read]
    cases full <;> rfl
  · intro l slot r w k s H x p calm hard
    have effect : recordEffect (s.laneCtx l) k .token (readBurst .token slot r s) false (goodWork l k r s []) =
        ((goodWork l k r s []).count fun n => { n with heldOut := n.heldOut + 1 }, disp .heldOut 0 false) := by
      unfold recordEffect
      dsimp only
      exact if_pos hard
    exact inOrder_calm (i := .token l slot r) rfl H.heard.wf H calm effect rfl rfl

/-! ## A CORRECT of a STANDBY pen (R69) -/

/-- The entry is of the slot. -/
def StandbyEntry.ofSlot (k : SlotId) (e : StandbyEntry) : Bool := e.slot == k

/-- R69: of the slot's entries the newest `n` leave; the others stay. -/
theorem dropNewest_filter (k : SlotId) (n : Nat) (es : List StandbyEntry) :
    (dropNewest k n es).filter (StandbyEntry.ofSlot k) = (es.filter (StandbyEntry.ofSlot k)).drop n ∧
      (dropNewest k n es).filter (fun e => !e.ofSlot k) = es.filter fun e => !e.ofSlot k := by
  induction es generalizing n with
  | nil => cases n <;> exact ⟨rfl, rfl⟩
  | cons e es ih =>
    cases n with
    | zero => exact ⟨rfl, rfl⟩
    | succ n =>
      unfold dropNewest
      by_cases own : e.slot = k
      · have own' : e.ofSlot k = true := beq_iff_eq.2 own
        rw [if_pos own]
        simpa [own'] using ih n
      · have own' : e.ofSlot k = false := beq_eq_false_iff_ne.2 own
        rw [if_neg own]
        simpa [own'] using ih (n + 1)

/-- R69: the list that a CORRECT of count `n` leaves, and how many entries it removes. -/
theorem standbyCorrect_eq (k : SlotId) (n : Nat) (w : Work) :
    ∃ kept : List StandbyEntry,
      kept.Sublist w.lane.pens.standby ∧
      kept.filter (fun e => !e.ofSlot k) = w.lane.pens.standby.filter (fun e => !e.ofSlot k) ∧
      kept.filter (StandbyEntry.ofSlot k) = (w.lane.pens.standby.filter (StandbyEntry.ofSlot k)).take
        ((w.lane.pens.standby.filter (StandbyEntry.ofSlot k)).length -
          min n (w.lane.pens.standby.filter (StandbyEntry.ofSlot k)).length) ∧
      standbyCorrect k n w =
        ({ w with lane := w.lane.withStandby kept (min n (w.lane.pens.standby.filter (StandbyEntry.ofSlot k)).length) },
          min n (w.lane.pens.standby.filter (StandbyEntry.ofSlot k)).length) := by
  let es := w.lane.pens.standby
  let mine := es.filter (StandbyEntry.ofSlot k)
  let kept := (dropNewest k n es.reverse).reverse
  obtain ⟨own, others⟩ := dropNewest_filter k n es.reverse
  have kept_own : kept.filter (StandbyEntry.ofSlot k) = mine.take (mine.length - min n mine.length) := by
    rw [List.filter_reverse, own, List.filter_reverse, List.drop_reverse, List.reverse_reverse]
    exact congrArg (mine.take ·) 
      (show mine.length - n = mine.length - min n mine.length by omega)
  have kept_others : kept.filter (fun e => !e.ofSlot k) = es.filter fun e => !e.ofSlot k := by
    rw [List.filter_reverse, others, List.filter_reverse, List.reverse_reverse]
  have removed : es.length - kept.length = min n mine.length := by
    have all : es.length = mine.length + (es.filter fun e => !e.ofSlot k).length := by
      exact List.length_eq_length_filter_add _
    have rest : kept.length = (kept.filter (StandbyEntry.ofSlot k)).length +
        (kept.filter fun e => !e.ofSlot k).length := List.length_eq_length_filter_add _
    rw [kept_own, kept_others, List.length_take] at rest
    omega
  have sublist : kept.Sublist es := by
    have := (dropNewest_sublist k n es.reverse).reverse
    rwa [List.reverse_reverse] at this
  refine ⟨kept, sublist, kept_others, kept_own, ?_⟩
  show ({ w with lane := w.lane.withStandby kept (es.length - kept.length) }, es.length - kept.length) = _
  rw [removed]

/-- Settles O34. -/
theorem standbyCorrectRemovesNewest : Obligations.StandbyCorrectRemovesNewest := by
  intro l slot r w k s H x p standby calm own mine removed
  have read := readIngest_words slot .correct r s H.heard.text
  have argument : (readBurst .correct slot r s).argument = r.argument.toNat := by
    unfold readBurst
    rw [read]
  obtain ⟨kept, sublist, others, newest, corrected⟩ := standbyCorrect_eq k r.argument.toNat (goodWork l k r s [])
  have effect : recordEffect (s.laneCtx l) k .correct (readBurst .correct slot r s) false (goodWork l k r s []) =
      ({ goodWork l k r s [] with lane := (goodWork l k r s []).lane.withStandby kept removed }, accepted false removed) := by
    unfold recordEffect
    dsimp only
    rw [argument, if_neg (by rw [goodWork_slot]; exact fun floor => Role.noConfusion (standby.symm.trans floor)),
      corrected]
    rfl
  obtain ⟨t, ended, report, lanes, recorded⟩ := inOrder_calm (i := .correct l slot r) rfl H.heard.wf H calm effect rfl rfl
  exact ⟨t, kept, ended, report, sublist, others, newest, lanes, recorded⟩

end Sys2Proof.Machine
end

section
/-!
O38 and O40: TAKE, and the recovery of a BARRED pen. A transfer of the floor changes of the pen slots the roles and the
last admitted arrivals alone.
-/
namespace Sys2Proof.Machine

/-! ## The slots across a transfer (R64, R65) -/

/-- Every slot of `y` is that of `x` but for its role and its last admitted arrival. -/
def Lane.SameMarks (x y : Lane) : Prop :=
  ∀ j, ∃ role admitted, y.pens.slots.get j = { x.pens.slots.get j with role := role, lastAdmitted := admitted }

theorem Lane.sameMarks_of_slots {x y : Lane} (h : y.pens.slots = x.pens.slots) : x.SameMarks y :=
  fun j => ⟨_, _, congrArg (Pair.get · j) h⟩

theorem Lane.SameMarks.trans {x y z : Lane} (h : x.SameMarks y) (k : y.SameMarks z) : x.SameMarks z := by
  intro j
  obtain ⟨_, _, first⟩ := h j
  obtain ⟨role, admitted, second⟩ := k j
  exact ⟨role, admitted, by rw [second, first]⟩

/-- A slot given a role or a last admitted arrival. -/
theorem setSlot_sameMarks (w : Work) (k : SlotId) (role : Role) (admitted : Option Field) :
    w.lane.SameMarks (w.setSlot k { w.slot k with role := role, lastAdmitted := admitted }).lane := by
  intro j
  rw [setSlot_get]
  split
  · rename_i same
    rw [same]
    exact ⟨role, admitted, rfl⟩
  · exact ⟨_, _, rfl⟩

section Marks
variable (c : LaneCtx)

theorem setRole_sameMarks (w : Work) (k : SlotId) (role : Role) : w.lane.SameMarks (w.setRole k role).lane :=
  setSlot_sameMarks w k role _

theorem handToAdmission_sameMarks (k : SlotId) (fromList : Bool) (t : Candidate) (w : Work) :
    w.lane.SameMarks (handToAdmission c k fromList t w).1.lane :=
  (Lane.sameMarks_of_slots (congrArg (·.slots) (admitCandidate_aside c k fromList t w).pens)).trans
    (setSlot_sameMarks _ k _ _)

theorem resolveEntries_sameMarks (new : SlotId) (reference : Option Field) (es : List StandbyEntry) (w : Work) :
    w.lane.SameMarks (es.foldl (resolveEntry c new reference) w).lane := by
  induction es generalizing w with
  | nil => exact Lane.sameMarks_of_slots rfl
  | cons e es ih =>
    refine Lane.SameMarks.trans ?_ (ih _)
    unfold resolveEntry
    split
    · exact handToAdmission_sameMarks c new true _ w
    · exact Lane.sameMarks_of_slots rfl

theorem transferRoles_sameMarks (new : SlotId) (w : Work) : w.lane.SameMarks (transferRoles new w).lane := by
  refine Lane.SameMarks.trans ?_ (setRole_sameMarks _ new _)
  split
  · exact setRole_sameMarks w _ _
  · exact Lane.sameMarks_of_slots rfl

theorem transfer_sameMarks (new : SlotId) (cause : FloorCause) (w : Work) :
    w.lane.SameMarks (transfer c new cause w).lane :=
  (transferRoles_sameMarks new w).trans
    (Lane.SameMarks.trans (y := ((transferRoles new w).setPens { (transferRoles new w).lane.pens with standby := [] }).lane)
      (Lane.sameMarks_of_slots rfl) (resolveEntries_sameMarks c new _ _ _))

theorem failover_sameMarks (w : Work) : w.lane.SameMarks (failover c w).lane := by
  unfold failover
  split
  · exact Lane.sameMarks_of_slots rfl
  · split
    · exact Lane.sameMarks_of_slots rfl
    · dsimp only
      split
      · split
        · exact transfer_sameMarks c _ _ w
        · exact setRole_sameMarks w _ _
      · split
        · exact transfer_sameMarks c _ _ w
        · exact Lane.sameMarks_of_slots rfl

theorem evaluateChanged_sameMarks (before after : Work) :
    after.lane.SameMarks (evaluateChanged c before after).lane := by
  unfold evaluateChanged
  split
  · exact Lane.sameMarks_of_slots rfl
  · exact failover_sameMarks c after

end Marks

/-! ## A BARRED pen (R55) -/

/-- R54: 200 faults make a pen BARRED. -/
theorem healthOf_barred {n : Nat} (h : 200 ≤ n) : healthOf n = .barred := by
  unfold healthOf
  rw [if_neg (by omega), if_neg (by omega), if_neg (by omega)]

/-- A BARRED slot after a record in sequence. -/
def PenSlot.heardBarred (p : PenSlot) (now : Field) (seq : Half) : PenSlot :=
  { p with lastHeard := now, silent := false, base := some seq }

/-- R52 steps 2 to 4: a record in sequence of a BARRED pen. -/
theorem wellFormed_barred {c : LaneCtx} {k : SlotId} {kind : IngestKind} {r : IngestRecord} {w : Work}
    (base : (w.slot k).base = none ∨ (w.slot k).base = some (r.seq - 1)) (barred : 200 ≤ (w.slot k).fault) :
    wellFormedRecord c k kind r w =
      barredEffect c k kind false { w with lane := w.lane.withSlot k ((w.slot k).heardBarred c.now r.seq) } := by
  have hears : hear c k w = { w with lane := w.lane.withSlot k { w.slot k with lastHeard := c.now, silent := false } } := rfl
  have lane : (w.lane.withSlot k { w.slot k with lastHeard := c.now, silent := false }).withSlot k
      { w.slot k with lastHeard := c.now, silent := false, base := some r.seq } =
      w.lane.withSlot k ((w.slot k).heardBarred c.now r.seq) := withSlot_withSlot _ _ _ _
  have health : (({ w with lane := w.lane.withSlot k ((w.slot k).heardBarred c.now r.seq) } : Work).slot k).health =
      .barred := by
    rw [withSlot_slot]
    exact healthOf_barred barred
  unfold wellFormedRecord
  dsimp only
  rw [hears, withSlot_slot, seqTest_inSequence base]
  dsimp only
  rw [setSlot_eq]
  dsimp only
  rw [lane]
  unfold chargeGood afterSequence
  rw [if_pos health, if_pos health]

/-- R55: a keepalive of a BARRED pen, before the run is complete. -/
theorem barredEffect_counts {c : LaneCtx} {k : SlotId} {w : Work} (short : (w.slot k).keepRun + 1 < 64) :
    barredEffect c k .keepalive false w =
      (w.setSlot k { w.slot k with keepRun := (w.slot k).keepRun + 1 }, disp .barred ((w.slot k).keepRun + 1) false) := by
  unfold barredEffect
  dsimp only
  exact if_neg (Nat.not_le.2 short)

/-- R55: the keepalive that completes the run. -/
theorem barredEffect_recovers {c : LaneCtx} {k : SlotId} {w : Work} (full : (w.slot k).keepRun + 1 = 64) :
    barredEffect c k .keepalive false w =
      (setFault c k 0 .keepalive (w.setSlot k { w.slot k with keepRun := 0 }), disp .barred 64 false) := by
  unfold barredEffect
  dsimp only
  exact if_pos (Nat.le_of_eq full.symm)

/-- R54: the slot of a pen that has recovered. -/
theorem setFault_zero_slot (c : LaneCtx) (k : SlotId) (cause : HealthCause) {w : Work} (run : (w.slot k).keepRun = 0) :
    (setFault c k 0 cause w).slot k = { w.slot k with fault := 0, keepRun := 0 } := by
  unfold setFault Work.slot
  dsimp only
  rw [reportHealth_lane, setSlot_get, if_pos rfl]
  have kept : ¬ (healthOf 0 = .barred ∧ (w.lane.pens.slots.get k).health ≠ .barred) := fun h => Health.noConfusion h.1
  rw [if_neg kept]
  exact congrArg (fun n => { w.lane.pens.slots.get k with fault := 0, keepRun := n }) run

/-- Settles O40. -/
theorem keepalivesRecoverABarredPen : Obligations.KeepalivesRecoverABarredPen := by
  intro l slot r w k s H x p q base barred
  let c := s.laneCtx l
  let before : Work := { lane := x, out := [] }
  let heard : Work := { lane := x.withSlot k (p.heardBarred s.timer.f r.seq), out := [] }
  have record : recordOf (.keepalive l slot r) = some (.lane l, slot, ingestWords .keepalive r) := rfl
  have read := readIngest_words slot .keepalive r s H.text
  have work : ingestWork l slot (ingestWords .keepalive r) s =
      monitored c k before (barredEffect c k .keepalive false heard) := by
    rw [ingestWork_heard H, wellFormed_barred (w := before) (by rw [read]; exact base) barred, read]
    rfl
  have heard_slot : heard.slot k = p.heardBarred s.timer.f r.seq := withSlot_slot before k _
  refine ⟨fun short => ?_, fun full => ?_⟩
  · have counts := barredEffect_counts (c := c) (k := k) (w := heard) (by rw [heard_slot]; exact short)
    rw [heard_slot] at counts
    have lane : heard.setSlot k { p.heardBarred s.timer.f r.seq with keepRun := p.keepRun + 1 } =
        { before with lane := x.withSlot k q } := by
      rw [setSlot_eq]
      exact congrArg (fun y => { before with lane := y }) (withSlot_withSlot x k _ _)
    have done : ingestWork l slot (ingestWords .keepalive r) s =
        ({ before with lane := x.withSlot k q },
          { outcome := .barred, detail := p.keepRun + 1, gap := false, health := some .barred }) := by
      rw [work, counts]
      show monitored c k before (heard.setSlot k { p.heardBarred s.timer.f r.seq with keepRun := p.keepRun + 1 }, _) = _
      rw [lane]
      unfold monitored withHealth
      dsimp only
      rw [evaluateChanged_slot (k := k) (p := q) (before := before) rfl rfl,
        show Work.slot { before with lane := x.withSlot k q } k = q from withSlot_slot before k q,
        show q.health = .barred from healthOf_barred barred]
      rfl
    obtain ⟨t, ended, E⟩ := ingest_effected record H.wf H.ready done
    exact ⟨t, ended, E.report rfl, E.lanes, E.recorded⟩
  · have recovers := barredEffect_recovers (c := c) (k := k) (w := heard) (by rw [heard_slot]; exact full)
    rw [heard_slot] at recovers
    let again := heard.setSlot k { p.heardBarred s.timer.f r.seq with keepRun := 0 }
    have again_slot : again.slot k = { p.heardBarred s.timer.f r.seq with keepRun := 0 } := by
      show (again.lane.pens.slots.get k) = _
      rw [setSlot_get, if_pos rfl]
    have recovered := setFault_zero_slot c k .keepalive (w := again) (by rw [again_slot])
    let after := evaluateChanged c before (setFault c k 0 .keepalive again)
    obtain ⟨role, admitted, marks⟩ := evaluateChanged_sameMarks c before (setFault c k 0 .keepalive again) k
    have slot_after : after.slot k =
        { p.heardBarred s.timer.f r.seq with fault := 0, keepRun := 0, role := role, lastAdmitted := admitted } := by
      refine marks.trans ?_
      rw [show (setFault c k 0 .keepalive again).lane.pens.slots.get k = _ from recovered, again_slot]
    have done : ingestWork l slot (ingestWords .keepalive r) s =
        (after, { outcome := .barred, detail := 64, gap := false, health := some .good }) := by
      rw [work, recovers]
      unfold monitored withHealth
      dsimp only
      rw [show (evaluateChanged c before (setFault c k 0 .keepalive again)).slot k = _ from slot_after]
      rfl
    obtain ⟨t, ended, E⟩ := ingest_effected record H.wf H.ready done
    have at_end : (t.lanes.get l).pens.slots.get k = _ := (congrArg (·.pens.slots.get k) E.lane).trans slot_after
    exact ⟨t, ended, congrArg (·.fault) at_end, congrArg (·.keepRun) at_end, congrArg (·.pen) at_end, E.other,
      E.recorded⟩

/-! ## TAKE (R60) -/

/-- The lane after a good record of a pen: what the floor depends on is kept, and the fault counts stay within 200. -/
theorem goodWork_charged (l : LaneId) (k : SlotId) (r : IngestFields) (s : State) (out : List Effect) :
    (s.lanes.get l).Charged k (goodWork l k r s out).lane :=
  setSlot_charged (w := { lane := s.lanes.get l, out := out })
    (p := ((s.lanes.get l).pens.slots.get k).afterGood s.timer.f r.seq) rfl rfl fun bound => (Nat.sub_le _ _).trans bound

theorem goodWork_other (l : LaneId) (k : SlotId) (r : IngestFields) (s : State) (out : List Effect) :
    (goodWork l k r s out).slot (otherSlot k) = (s.lanes.get l).pens.slots.get (otherSlot k) :=
  otherSlot_get_set _ _ _

/-- R64: the tracker that a transfer leaves: a hard align is due, and D is kept. -/
theorem resolveEntries_d (c : LaneCtx) (new : SlotId) (reference : Option Field) (es : List StandbyEntry) (w : Work) :
    (es.foldl (resolveEntry c new reference) w).lane.tracker.d = w.lane.tracker.d := by
  have hold (t : Tok) (v : Work) : (enterHold t v).1.lane.tracker = v.lane.tracker := by
    unfold enterHold
    dsimp only
    split
    · rfl
    · split
      · split <;> rfl
      · rfl
  induction es generalizing w with
  | nil => rfl
  | cons e es ih =>
    refine (ih _).trans ?_
    unfold resolveEntry
    split
    · unfold handToAdmission admitCandidate
      dsimp only
      have seek := compareToken_followerOnly c
        { text := e.candidate.text, newline := e.candidate.newline, speaker := e.candidate.speaker, script := none }
        (startAndPair c true e.candidate.gap e.candidate.tag e.candidate.arrival w)
      refine (congrArg (·.d) (hold _ _)).trans ?_
      rw [seek]
      rfl
    · rfl

theorem transfer_tracker (c : LaneCtx) (new : SlotId) (cause : FloorCause) (w : Work) :
    (transfer c new cause w).lane.tracker.hardAlign = true ∧
      (transfer c new cause w).lane.tracker.d = w.lane.tracker.d := by
  refine ⟨rfl, (resolveEntries_d c new _ _ _).trans ?_⟩
  show (transferRoles new w).lane.tracker.d = _
  unfold transferRoles
  split <;> rfl

theorem healthOf_able {n : Nat} (h : n < 100) : healthOf n = .good ∨ healthOf n = .warn := by
  unfold healthOf
  split
  · exact .inl rfl
  · exact .inr rfl

/-- R60: a TAKE by an eligible STANDBY pen. -/
theorem takeEffect_able {c : LaneCtx} {k : SlotId} {w : Work} (standby : (w.slot k).role ≠ .floor)
    (able : (w.slot k).eligible = true) (failing : w.lane.pens.floor = .steady → w.lane.pens.floorFailing = true) :
    takeEffect c k w = some (transfer c k .take w) := by
  unfold takeEffect
  dsimp only
  rw [able, if_neg (by simp [standby])]
  cases state : w.lane.pens.floor with
  | steady =>
    dsimp only
    rw [failing state, if_pos rfl]
  | handover d => rfl
  | vacant => rfl

/-- R60: the TAKE of a pen that has the floor, or of one whose floor pen stands well, is refused. -/
theorem takeEffect_refused {c : LaneCtx} {k : SlotId} {w : Work}
    (refused : (w.slot k).role = .floor ∨ (w.lane.pens.floor = .steady ∧ w.lane.pens.floorFailing = false)) :
    takeEffect c k w = none := by
  unfold takeEffect
  dsimp only
  rcases refused with floor | ⟨steady, stands⟩
  · rw [if_pos (by simp [floor])]
  · rw [steady]
    dsimp only
    rw [stands]
    simp

/-- The floor pen of a lane whose slot `k` has role STANDBY while the floor is held. -/
theorem floorSlot_other {x : Lane} (ok : x.FloorOk) {k : SlotId} (standby : (x.pens.slots.get k).role = .standby)
    (held : x.pens.floor ≠ .vacant) : x.pens.floorSlot = some (otherSlot k) := by
  have not_here : (x.pens.slots.get k).role ≠ .floor := fun floor => Role.noConfusion (standby.symm.trans floor)
  refine floorSlot_some (by_contra fun not_other => held (ok.posted.vacant.2 fun j => ?_)) ?_
  · cases k <;> cases j <;> first | exact not_here | exact not_other
  · cases k <;> exact not_here

/-- What a good record of a STANDBY pen leaves of the floor pen's standing. -/
theorem goodWork_floorFailing {l : LaneId} {k : SlotId} {s : State} (r : IngestFields) (out : List Effect)
    (ok : (s.lanes.get l).FloorOk) (standby : ((s.lanes.get l).pens.slots.get k).role = .standby)
    (steady : (s.lanes.get l).pens.floor = .steady) :
    (goodWork l k r s out).lane.pens.floorFailing = ((s.lanes.get l).pens.slots.get (otherSlot k)).failing := by
  have held : (s.lanes.get l).pens.floor ≠ .vacant := fun vacant => FloorState.noConfusion (steady.symm.trans vacant)
  have at_other := floorSlot_other ok standby held
  have roles := (goodWork_charged l k r s out).role
  have slot : (goodWork l k r s out).lane.pens.floorSlot = some (otherSlot k) := by
    unfold Pens.floorSlot at at_other ⊢
    rw [← at_other]
    exact congrArg₂ (fun (a b : Role) => if a = .floor then some SlotId.a else if b = .floor then some .b else none)
      (roles .a) (roles .b)
  unfold Pens.floorFailing
  rw [slot]
  exact congrArg PenSlot.failing (goodWork_other l k r s out)

/-- Settles O38. -/
theorem takeTransfersOrIsRefused : Obligations.TakeTransfersOrIsRefused := by
  constructor
  · intro l slot r w k s H x p o ok standby faults failing
    have used : p.pen ≠ 0 := fun zero => Role.noConfusion (standby.symm.trans ((ok.empty k).2 zero))
    have effect (out : List Effect) : recordEffect (s.laneCtx l) k .take (readBurst .take slot r s) false
        (goodWork l k r s out) =
          (transfer (s.laneCtx l) k .take (goodWork l k r s out), accepted false 1) := by
      have taken := takeEffect_able (c := s.laneCtx l) (k := k) (w := goodWork l k r s out)
        (by rw [goodWork_slot]; exact fun floor => Role.noConfusion (standby.symm.trans floor))
        (by
          have able := healthOf_able (n := p.fault - 1) (by omega)
          rw [goodWork_slot]
          show (!(p.pen == 0) && (healthOf (p.fault - 1) == .good || healthOf (p.fault - 1) == .warn) && true) = true
          rw [show (p.pen == 0) = false from beq_eq_false_iff_ne.2 used]
          simpa using able)
        (fun steady => by
          rw [goodWork_floorFailing r out ok standby steady]
          unfold PenSlot.failing
          rw [Bool.or_eq_true, beq_iff_eq]
          exact failing steady)
      unfold recordEffect
      dsimp only
      rw [taken]
    have posted (out : List Effect) : (goodWork l k r s out).lane.Posted := ok.posted.charged (goodWork_charged l k r s out)
    have handed := fun out => transfer_handedTo (s.laneCtx l) k .take (posted out)
    have marks := fun out => transfer_sameMarks (s.laneCtx l) k .take (goodWork l k r s out)
    have marked (out : List Effect) : ∃ role admitted, (transfer (s.laneCtx l) k .take (goodWork l k r s out)).slot k =
        { p.afterGood s.timer.f r.seq with role := role, lastAdmitted := admitted } := by
      obtain ⟨role, admitted, slot⟩ := marks out k
      refine ⟨role, admitted, slot.trans ?_⟩
      rw [show (goodWork l k r s out).lane.pens.slots.get k = _ from goodWork_slot l k r s out]
    have other_fault (out : List Effect) :
        ((transfer (s.laneCtx l) k .take (goodWork l k r s out)).slot (otherSlot k)).fault = o.fault :=
      ((handed out).fault _).trans (congrArg (·.fault) (goodWork_other l k r s out))
    obtain ⟨t, out, ended, -, E⟩ := inOrder_effected (i := .take l slot r) rfl H.heard.wf H effect fun out => by
      obtain ⟨role, admitted, slot⟩ := marked out
      refine evaluateChanged_floor (k := k) (floorSlot_some (((handed out).holder k).2 rfl)
        fun both => otherSlot_ne k (((handed out).holder _).1 both)) (by rw [slot]; rfl) (by rw [slot]; rfl) H.unbarred ?_
      exact congrArg healthOf (other_fault out)
    obtain ⟨role, admitted, slot_k⟩ := marked out
    have kept := transfer_kept (s.laneCtx l) k .take (goodWork l k r s out)
    obtain ⟨align, d⟩ := transfer_tracker (s.laneCtx l) k .take (goodWork l k r s out)
    have recorded := E.recorded
    unfold withHealth at recorded
    rw [slot_k] at recorded
    refine ⟨t, ended, ?_⟩
    rw [E.lane]
    exact ⟨((handed out).holder k).2 rfl, fun both => otherSlot_ne k (((handed out).holder _).1 both),
      congrArg (·.fault) slot_k, congrArg (·.base) slot_k,
      ((handed out).pen _).trans (congrArg (·.pen) (goodWork_other l k r s out)), other_fault out, (handed out).steady,
      (handed out).standby, align, kept.state, kept.link, d, E.other, recorded⟩
  · intro l slot r w k s H x p o ok calm refused
    have none : takeEffect (s.laneCtx l) k (goodWork l k r s []) = none := by
      refine takeEffect_refused (refused.imp (fun floor => ?_) fun ⟨standby, steady, heard, well⟩ => ⟨steady, ?_⟩)
      · rw [goodWork_slot]
        exact floor
      · rw [goodWork_floorFailing r [] ok standby steady]
        unfold PenSlot.failing
        rw [Bool.or_eq_false_iff]
        exact ⟨heard, beq_eq_false_iff_ne.2 well⟩
    have effect : recordEffect (s.laneCtx l) k .take (readBurst .take slot r s) false (goodWork l k r s []) =
        (goodWork l k r s [], refusedRole (goodWork l k r s []) false) := by
      unfold recordEffect
      dsimp only
      rw [none]
    obtain ⟨t, ended, report, lanes, recorded⟩ := inOrder_calm (i := .take l slot r) rfl H.heard.wf H calm effect rfl rfl
    have detail : (refusedRole (goodWork l k r s []) false).detail =
        match x.pens.floor with | .steady => 1 | .handover _ => 2 | .vacant => 3 := floor_code _
    rw [detail] at recorded
    exact ⟨t, ended, report, lanes, recorded⟩

end Sys2Proof.Machine
end

section
/-!
O31 and O35: a TOKEN of the floor pen is admitted, and a CORRECT of it retracts tokens from the hold queue.
-/
namespace Sys2Proof.Machine

/-! ## Step 1 of admission (R76 to R80) -/

/-- Of `x`, `y` has another tracker and another count of unmatched onsets; D and the start-pending flag are kept. -/
structure Lane.Paired (x y : Lane) : Prop where
  only : y = { x with
    tracker := y.tracker,
    hold := { x.hold with counters := { x.hold.counters with unmatchedOnsets := y.hold.counters.unmatchedOnsets } } }
  d : y.tracker.d = x.tracker.d
  pending : y.tracker.startPending = x.tracker.startPending

theorem Lane.Paired.refl (x : Lane) : x.Paired x := ⟨rfl, rfl, rfl⟩

theorem Lane.Paired.trans {x y z : Lane} (h : x.Paired y) (k : y.Paired z) : x.Paired z := by
  refine ⟨?_, k.d.trans h.d, k.pending.trans h.pending⟩
  have later := k.only
  rw [h.only] at later
  exact later

theorem Work.setTracker_paired {w : Work} {t : Tracker} (d : t.d = w.lane.tracker.d)
    (pending : t.startPending = w.lane.tracker.startPending) : w.lane.Paired (w.setTracker t).lane :=
  ⟨rfl, d, pending⟩

theorem Work.unmatched_paired (w : Work) (n : Nat) : w.lane.Paired (w.unmatched n).lane := ⟨rfl, rfl, rfl⟩

theorem measure_paired (c : LaneCtx) (tag : Half) (a o : Field) (w : Work) :
    w.lane.Paired (measure c tag a o w).lane := by
  unfold measure
  dsimp only
  split
  · rw [Work.report_lane]
    exact Work.setTracker_paired rfl rfl
  · exact Work.setTracker_paired rfl rfl

theorem pairStart_paired (c : LaneCtx) (tag : Half) (a : Field) (w : Work) :
    w.lane.Paired (pairStart c tag a w).lane := by
  unfold pairStart
  dsimp only
  split
  · exact ⟨rfl, rfl, rfl⟩
  · refine Lane.Paired.trans ?_ (measure_paired c tag a _ _)
    exact ⟨rfl, rfl, rfl⟩

/-- R76 to R78: step 1 of admission of a token that is no standby-list entry. -/
theorem startAndPair_paired (c : LaneCtx) (gap : Bool) (tag : Half) (a : Field) (w : Work) :
    ∃ t u, (startAndPair c false gap tag a w).lane = { w.lane with
        tracker := t,
        hold := { w.lane.hold with counters := { w.lane.hold.counters with unmatchedOnsets := u } } } ∧
      t.d = w.lane.tracker.d ∧ t.startPending = false ∧ t.lastArrival = some a := by
  have begun : (w.setTracker { w.lane.tracker with startPending := false }).lane.Paired
      (if w.lane.tracker.isStart gap a then
        pairStart c tag a (w.setTracker { w.lane.tracker with startPending := false })
      else w.setTracker { w.lane.tracker with startPending := false }).lane := by
    split
    · exact pairStart_paired c tag a _
    · exact .refl _
  unfold startAndPair
  dsimp only
  rw [if_neg Bool.false_ne_true]
  generalize (if w.lane.tracker.isStart gap a then _ else _ : Work) = v at begun
  refine ⟨{ v.lane.tracker with lastArrival := some a }, v.lane.hold.counters.unmatchedOnsets, ?_, begun.d,
    begun.pending, rfl⟩
  show { v.lane with tracker := { v.lane.tracker with lastArrival := some a } } = _
  rw [begun.only]
  rfl

/-! ## Admission with room in the hold queue (R91) -/

/-- R128: without a cue the follower does nothing with a token. -/
theorem compareToken_uncued {c : LaneCtx} {t : Shown} {w : Work} (not_cued : w.lane.follower.state ≠ .cued)
    (not_locked : w.lane.follower.state ≠ .locked) : compareToken c t w = (w, t) := by
  unfold compareToken
  dsimp only
  split
  · rfl
  · split
    · rfl
    · rename_i cued
      exact absurd cued not_cued
    · rename_i locked
      exact absurd locked not_locked
    · rfl
    · rfl

theorem enterHold_room {t : Tok} {w : Work} (room : w.lane.hold.queue.length < 128) :
    enterHold t w =
      (w.setHold { w.lane.hold with
        queue := w.lane.hold.queue ++ [t],
        counters := { w.lane.hold.counters with
          admitted := w.lane.hold.counters.admitted + 1, held := w.lane.hold.counters.held + 1 } }, true) := by
  unfold enterHold
  exact if_pos room

/-- The token that a candidate becomes when no script was matched (R83, R91). -/
def Candidate.tok (t : Candidate) (due : Field) : Tok :=
  { tag := t.tag, due := due, newline := t.newline, speaker := t.speaker, text := t.text, script := none }

/-- What the admission of a token of slot `k` leaves, with the tracker and the unmatched onsets that pairing left. -/
def Lane.admitted (x : Lane) (k : SlotId) (t : Candidate) (tracker : Tracker) (unmatched : Counter) : Lane :=
  { x with
    tracker := tracker,
    hold := { x.hold with
      queue := x.hold.queue ++ [t.tok (tracker.due t.arrival)],
      counters := { x.hold.counters with
        admitted := x.hold.counters.admitted + 1, held := x.hold.counters.held + 1, unmatchedOnsets := unmatched } },
    recent := x.recent.set k (pushRecent t.tag (x.recent.get k)) }

theorem admitCandidate_room {c : LaneCtx} {k : SlotId} {t : Candidate} {w : Work}
    (room : w.lane.hold.queue.length < 128) (not_cued : w.lane.follower.state ≠ .cued)
    (not_locked : w.lane.follower.state ≠ .locked) :
    ∃ tracker u, (admitCandidate c k false t w).1.lane = w.lane.admitted k t tracker u ∧
      (admitCandidate c k false t w).2 = true ∧ tracker.d = w.lane.tracker.d ∧ tracker.startPending = false ∧
      tracker.lastArrival = some t.arrival := by
  obtain ⟨tracker, u, lane, d, pending, arrival⟩ := startAndPair_paired c t.gap t.tag t.arrival w
  unfold admitCandidate
  dsimp only
  generalize startAndPair c false t.gap t.tag t.arrival w = v at lane
  have follower : v.lane.follower = w.lane.follower := by rw [lane]
  have queue : v.lane.hold.queue = w.lane.hold.queue := by rw [lane]
  rw [compareToken_uncued (by rw [follower]; exact not_cued) (by rw [follower]; exact not_locked)]
  dsimp only
  rw [enterHold_room (by rw [queue]; exact room)]
  refine ⟨tracker, u, ?_, rfl, d, pending, arrival⟩
  dsimp only [Work.setHold]
  rw [lane]
  rfl

/-- The record as a token handed to admission with a tag (R66). -/
def IngestRecord.candidate (r : IngestRecord) (tag : Half) : Candidate :=
  { tag := tag, arrival := r.arrival, newline := r.newline, speaker := r.speaker, gap := r.gap, text := r.text }

/-- R90: the lane with its tag counter past a tag. -/
def Lane.tagged (x : Lane) (tag : Half) : Lane := { x with hold := { x.hold with tagCounter := tag + 1 } }

/-- R66, R90: a TOKEN of the floor pen, with room in the hold queue. -/
theorem admitToken_room {c : LaneCtx} {k : SlotId} {r : IngestRecord} {w : Work}
    (room : w.lane.hold.queue.length < 128) (not_cued : w.lane.follower.state ≠ .cued)
    (not_locked : w.lane.follower.state ≠ .locked) :
    ∃ tracker u, (admitToken c k r w).1.lane =
        ((w.lane.tagged (giveTag w).2).admitted k (r.candidate (giveTag w).2) tracker u).withSlot k
          { w.slot k with lastAdmitted := some r.arrival } ∧
      (admitToken c k r w).2 = true ∧ tracker.d = w.lane.tracker.d ∧ tracker.startPending = false ∧
      tracker.lastArrival = some r.arrival := by
  obtain ⟨tracker, u, lane, admitted, d, pending, arrival⟩ := admitCandidate_room (c := c) (k := k)
    (t := r.candidate (giveTag w).2) (w := (giveTag w).1) room not_cued not_locked
  refine ⟨tracker, u, ?_, admitted, d, pending, arrival⟩
  show (admitCandidate c k false (r.candidate (giveTag w).2) (giveTag w).1).1.lane.withSlot k
    { (admitCandidate c k false (r.candidate (giveTag w).2) (giveTag w).1).1.lane.pens.slots.get k with
      lastAdmitted := some r.arrival } = _
  rw [lane]
  rfl

/-- A TOKEN as its command wrote it, with a tag. -/
theorem readBurst_candidate {slot : Nat} {r : IngestFields} (text : r.text.length = 10) (s : State) (tag : Half) :
    (readBurst .token slot r s).candidate tag =
      { tag := tag, arrival := s.timer.f, newline := r.newline, speaker := r.speaker, gap := r.gap,
        text := typedText r } := by
  unfold readBurst
  rw [readIngest_words slot .token r s text]
  rfl

/-- Settles O31. -/
theorem tokenIsAdmitted : Obligations.TokenIsAdmitted := by
  intro l slot r w k s H x p ok floor open_lane room not_cued not_locked
  let f : Work → Work := fun v => (admitToken (s.laneCtx l) k (readBurst .token slot r s) v).1
  have admits := fun out => admitToken_room (c := s.laneCtx l) (k := k) (r := readBurst .token slot r s)
    (w := goodWork l k r s out) room not_cued not_locked
  have effect (out : List Effect) : recordEffect (s.laneCtx l) k .token (readBurst .token slot r s) false
      (goodWork l k r s out) = (f (goodWork l k r s out), accepted false 1) := by
    obtain ⟨_, _, -, admitted, -⟩ := admits out
    have here : ((goodWork l k r s out).slot k).role = .floor := by
      rw [goodWork_slot]
      exact floor
    unfold recordEffect tokenEffect
    dsimp only
    rw [if_neg (show ¬ (goodWork l k r s out).lane.hold.state = .hardHeld from open_lane), if_pos here]
    dsimp only
    rw [admitted]
    rfl
  obtain ⟨t, out, ended, -, E⟩ := inOrder_floor (i := .token l slot r) rfl H.heard.wf H ok floor effect
    (fun out => by
      obtain ⟨_, _, lane, -⟩ := admits out
      refine ⟨some (readBurst .token slot r s).arrival, ?_⟩
      rw [← goodWork_slot l k r s out]
      refine (congrArg (fun y : Lane => y.pens.slots.get k) lane).trans ?_
      exact Pair.get_set_same _ _ _)
    (fun out => by
      obtain ⟨_, _, lane, -⟩ := admits out
      refine (congrArg (fun y : Lane => y.pens.slots.get (otherSlot k)) lane).trans ?_
      exact (otherSlot_get_set _ _ _).trans (goodWork_other l k r s out))
  obtain ⟨tracker, u, lane, -, d, pending, arrival⟩ := admits out
  have now : (readBurst .token slot r s).arrival = s.timer.f := by
    unfold readBurst
    rw [readIngest_words slot .token r s H.heard.text]
  rw [goodWork_slot, readBurst_candidate H.heard.text, now] at lane
  refine ⟨t, (giveTag (goodWork l k r s out)).2, ended, ?_⟩
  dsimp only
  rw [E.lane.trans lane]
  refine ⟨rfl, rfl, rfl, arrival.trans (congrArg _ now), pending, d, ?_, rfl, rfl, rfl, rfl, E.other, E.recorded⟩
  exact congrArg Lane.pens (withSlot_withSlot x k _ _)

/-! ## Retraction from the hold queue (R106 to R108) -/

/-- The lane with the tokens of the tags retracted from its hold queue. -/
def Lane.retracted (x : Lane) (tags : List Half) : Lane :=
  { x with hold := { x.hold with
      queue := x.hold.queue.filter fun e => !tags.contains e.tag,
      counters := { x.hold.counters with
        held := x.hold.counters.held - BitVec.ofNat 32 tags.length,
        retracted := x.hold.counters.retracted + BitVec.ofNat 32 tags.length } } }

/-- The tags of the hold queue. -/
def Lane.heldTags (x : Lane) : List Half := x.hold.queue.map (·.tag)

theorem eraseP_tag {q : List Tok} (nodup : (q.map (·.tag)).Nodup) (g : Half) :
    q.eraseP (fun t => t.tag == g) = q.filter fun t => !(t.tag == g) := by
  induction q with
  | nil => rfl
  | cons t q ih =>
    obtain ⟨fresh, rest⟩ := List.nodup_cons.1 nodup
    by_cases same : t.tag = g
    · have others : q.filter (fun t => !(t.tag == g)) = q := by
        refine List.filter_eq_self.2 fun u mem => ?_
        have other : u.tag ≠ g := fun again => fresh (List.mem_map.2 ⟨u, mem, again.trans same.symm⟩)
        simpa using other
      simp [same, others]
    · simp [same, ih rest]

/-- R105: a tag of the hold queue is found there. -/
theorem locate_hold {x : Lane} {g : Half} (held : g ∈ x.heldTags) : x.locate g = .hold := by
  obtain ⟨t, mem, tag⟩ := List.mem_map.1 held
  have found : (x.hold.queue.any fun t => t.tag == g) = true :=
    List.any_eq_true.2 ⟨t, mem, beq_iff_eq.2 tag⟩
  unfold Lane.locate
  exact if_pos found

/-- R105: a tag that is nowhere in the lane. -/
theorem locate_gone {x : Lane} {g : Half} (not_held : g ∉ x.heldTags)
    (not_queued : ∀ e ∈ x.composer.emission, e.body.hasTag g = false)
    (not_shown : ∀ q ∈ x.composer.rows.spans, q.copy.hasTag g = false) : x.locate g = .gone := by
  have no_hold : ¬ (x.hold.queue.any fun t => t.tag == g) = true := fun any => by
    obtain ⟨t, mem, tag⟩ := List.any_eq_true.1 any
    exact not_held (List.mem_map.2 ⟨t, mem, beq_iff_eq.1 tag⟩)
  have no_entry : x.composer.emission.find? (fun e => e.body.hasTag g) = none :=
    List.find?_eq_none.2 fun e mem => by rw [not_queued e mem]; exact Bool.false_ne_true
  have no_span : ¬ (x.composer.rows.spans.any fun q => !q.continues && q.copy.hasTag g) = true := fun any => by
    obtain ⟨q, mem, span⟩ := List.any_eq_true.1 any
    rw [not_shown q mem, Bool.and_false] at span
    exact Bool.false_ne_true span
  unfold Lane.locate
  rw [if_neg no_hold, no_entry]
  exact if_neg no_span

theorem retracted_nil (x : Lane) : x.retracted [] = x := by
  unfold Lane.retracted
  simp

/-- One retraction, and then the others. -/
theorem retracted_cons (x : Lane) (g : Half) (gs : List Half) :
    (x.retracted [g]).retracted gs = x.retracted (g :: gs) := by
  have queue : (x.hold.queue.filter fun e => !([g] : List Half).contains e.tag).filter
      (fun e => !gs.contains e.tag) = x.hold.queue.filter fun e => !(g :: gs).contains e.tag := by
    rw [List.filter_filter]
    refine List.filter_congr fun e _ => ?_
    simp [Bool.and_comm]
  have held (k : Counter) :
      k - BitVec.ofNat 32 1 - BitVec.ofNat 32 gs.length = k - BitVec.ofNat 32 (gs.length + 1) := by
    bv_omega
  have count (k : Counter) :
      k + BitVec.ofNat 32 1 + BitVec.ofNat 32 gs.length = k + BitVec.ofNat 32 (gs.length + 1) := by
    bv_omega
  unfold Lane.retracted
  dsimp only
  rw [queue]
  congr 2
  exact congrArg₂ (fun a b => { x.hold.counters with held := a, retracted := b }) (held _) (count _)

/-- R108: one tag retracted from the hold queue. -/
theorem retractHold_eq {g : Correcting} {tag : Half} (queue : g.work.lane.heldTags.Nodup) :
    ∃ scripts, retractHold tag g =
      { g with
        work := { g.work with lane := g.work.lane.retracted [tag] },
        reachable := g.reachable + 1, scripts := scripts } := by
  have erased : g.work.lane.hold.queue.eraseP (fun t => t.tag == tag) =
      g.work.lane.hold.queue.filter fun e => !([tag] : List Half).contains e.tag := by
    rw [eraseP_tag queue]
    refine List.filter_congr fun e _ => ?_
    rw [Bool.eq_iff_iff]
    simp
  refine ⟨(retractHold tag g).scripts, ?_⟩
  unfold retractHold
  dsimp only
  rw [erased]
  rfl

theorem retracted_heldTags (x : Lane) (g : Half) : (x.retracted [g]).heldTags = x.heldTags.filter fun t => !(t == g) := by
  unfold Lane.heldTags
  rw [List.filter_map]
  refine congrArg (List.map _) (List.filter_congr fun e _ => ?_)
  rw [Bool.eq_iff_iff]
  simp

/-- R108: the selected tokens, all in the hold queue, are retracted one after the other. -/
theorem retractOff_held (tags : List Half) (g : Correcting) (nodup : tags.Nodup)
    (queue : g.work.lane.heldTags.Nodup) (held : ∀ t ∈ tags, t ∈ g.work.lane.heldTags) :
    ∃ scripts, tags.foldl retractOff g =
      { g with
        work := { g.work with lane := g.work.lane.retracted tags },
        reachable := g.reachable + tags.length, scripts := scripts } := by
  induction tags generalizing g with
  | nil => exact ⟨g.scripts, by rw [retracted_nil]; rfl⟩
  | cons t ts ih =>
    obtain ⟨fresh, rest⟩ := List.nodup_cons.1 nodup
    obtain ⟨scripts, one⟩ := retractHold_eq (tag := t) queue
    have step : retractOff g t = retractHold t g := by
      unfold retractOff
      rw [locate_hold (held t List.mem_cons_self)]
    have after : (retractHold t g).work.lane = g.work.lane.retracted [t] := by rw [one]
    obtain ⟨scripts', others⟩ := ih (retractHold t g) rest
      (by rw [after, retracted_heldTags]; exact queue.filter _)
      (fun u mem => by
        have other : u ≠ t := fun same => fresh (same ▸ mem)
        rw [after, retracted_heldTags]
        exact List.mem_filter.2 ⟨held u (List.mem_cons_of_mem _ mem), by simpa using other⟩)
    refine ⟨scripts', ?_⟩
    rw [List.foldl_cons, step, others, after, retracted_cons, one, List.length_cons, Nat.add_assoc, Nat.add_comm 1]

/-- R107: the tags that a CORRECT selects, newest first. -/
theorem selectTags_eq {n : Nat} {recent : List Half} :
    selectTags n recent = ((recent.drop (recent.length - n)).reverse, recent.take (recent.length - n)) := by
  unfold selectTags
  rw [List.take_reverse]

/-- The lane with a slot's recent list shortened by its newest `n` tags. -/
def Lane.forgets (x : Lane) (k : SlotId) (n : Nat) : Lane :=
  { x with recent := x.recent.set k ((x.recent.get k).take ((x.recent.get k).length - n)) }

/-- The newest `n` tags of a slot's recent list. -/
def Lane.newest (x : Lane) (k : SlotId) (n : Nat) : List Half := (x.recent.get k).drop ((x.recent.get k).length - n)

/-- R106: a correction whose selected tokens are all in the hold queue. -/
theorem correctUnit_held {c : LaneCtx} {k : SlotId} {n : Nat} {w : Work} (not_locked : w.lane.follower.state ≠ .locked)
    (enough : n ≤ (w.lane.recent.get k).length) (nodup : (w.lane.newest k n).Nodup) (queue : w.lane.heldTags.Nodup)
    (held : ∀ g ∈ w.lane.newest k n, g ∈ w.lane.heldTags ∧
      (∀ e ∈ w.lane.composer.emission, e.body.hasTag g = false) ∧
      (∀ q ∈ w.lane.composer.rows.spans, q.copy.hasTag g = false)) :
    correctUnit c k n w = ({ w with lane := (w.lane.forgets k n).retracted (w.lane.newest k n).reverse }, n) := by
  let w1 : Work := { w with lane := w.lane.forgets k n }
  let tags := (w.lane.newest k n).reverse
  have length : tags.length = n := by
    show ((w.lane.recent.get k).drop _).reverse.length = n
    rw [List.length_reverse, List.length_drop]
    omega
  let g0 : Correcting := { work := w1, reachable := 0, unreachable := n - tags.length, scripts := [] }
  obtain ⟨scripts, retracted⟩ := retractOff_held tags g0 (List.nodup_reverse.2 nodup) queue
    fun t mem => (held t (List.mem_reverse.1 mem)).1
  let g1 : Correcting := { work := { w1 with lane := w1.lane.retracted tags }, reachable := n, unreachable := 0,
                           scripts := scripts }
  have folded : tags.foldl retractOff g0 = g1 := by
    rw [retracted]
    show Correcting.mk _ (0 + tags.length) (n - tags.length) _ = _
    rw [length, Nat.zero_add, Nat.sub_self]
  have gone : tags.filter g1.work.lane.shownOnScreen = [] := by
    refine List.filter_eq_nil_iff.2 fun t mem => ?_
    obtain ⟨-, not_queued, not_shown⟩ := held t (List.mem_reverse.1 mem)
    have not_held : t ∉ g1.work.lane.heldTags := fun still => by
      obtain ⟨e, mem_e, rfl⟩ := List.mem_map.1 still
      have kept := (List.mem_filter.1 mem_e).2
      simp only [List.contains_eq_mem, Bool.not_eq_eq_eq_not, Bool.not_true, decide_eq_false_iff_not] at kept
      exact kept mem
    unfold Lane.shownOnScreen
    rw [locate_gone not_held not_queued not_shown]
    decide
  have no_spans : leftmost (g1.work.lane.composer.rows.spans.filter fun q => !q.continues && q.selected []) = none := by
    have empty : (g1.work.lane.composer.rows.spans.filter fun q => !q.continues && q.selected []) = [] :=
      List.filter_eq_nil_iff.2 fun q _ => by simp [Span.selected]
    rw [empty]
    rfl
  have erased : eraseShown tags g1 = g1 := by
    unfold eraseShown
    dsimp only
    rw [gone, no_spans]
    rfl
  have unmarked : appendMarker g1 = g1 := by
    unfold appendMarker
    exact if_neg (by simp [g1])
  have stays : setCursorBack c g1 = g1 := by
    unfold setCursorBack
    split
    · exact if_neg fun h => not_locked h.1
    · rfl
  unfold correctUnit
  dsimp only
  rw [selectTags_eq]
  show ((setCursorBack c (appendMarker (eraseShown tags (tags.foldl retractOff g0)))).work,
    (setCursorBack c (appendMarker (eraseShown tags (tags.foldl retractOff g0)))).reachable) = _
  rw [folded, erased, unmarked, stays]

/-- Settles O35. -/
theorem correctRetractsFromHold : Obligations.CorrectRetractsFromHold := by
  intro l slot r w k s H x p n tags ok floor not_locked enough nodup queue held
  let f : Work → Work := fun v => { v with lane := (v.lane.forgets k n).retracted (v.lane.newest k n).reverse }
  have argument : (readBurst .correct slot r s).argument = n := by
    unfold readBurst
    rw [readIngest_words slot .correct r s H.heard.text]
  have effect (out : List Effect) : recordEffect (s.laneCtx l) k .correct (readBurst .correct slot r s) false
      (goodWork l k r s out) = (f (goodWork l k r s out), accepted false n) := by
    have here : ((goodWork l k r s out).slot k).role = .floor := by
      rw [goodWork_slot]
      exact floor
    have corrected := correctUnit_held (c := s.laneCtx l) (k := k) (n := n) (w := goodWork l k r s out) not_locked enough
      nodup queue held
    unfold recordEffect
    dsimp only
    rw [if_pos here, argument, corrected]
  obtain ⟨t, out, ended, -, E⟩ := inOrder_floor (i := .correct l slot r) rfl H.heard.wf H ok floor effect
    (fun out => ⟨p.lastAdmitted, goodWork_slot l k r s out⟩) (fun out => goodWork_other l k r s out)
  refine ⟨t, ended, E.lanes.trans (congrArg _ ?_), E.recorded⟩
  have length : tags.reverse.length = n := by
    rw [List.length_reverse, List.length_drop]
    exact Nat.sub_sub_self enough
  show ((goodWork l k r s out).lane.forgets k n).retracted tags.reverse = _
  unfold Lane.retracted
  rw [length]
  have kept : (fun e : Tok => !tags.reverse.contains e.tag) = fun e => !tags.contains e.tag := by
    funext e
    rw [List.contains_reverse]
  rw [kept]
  rfl

end Sys2Proof.Machine
end

section
/-!
O43, O45, O46, O48 and O49: the directives PEN-SET, UNCUE, LINK, FLUSH and RESTORE carried out.
-/
namespace Sys2Proof.Machine

section
variable {w : Window} {l : LaneId} {s : State}

/-! ## UNCUE (R122) -/

theorem acceptUncue_out (w : Work) : (acceptUncue w).out = w.out := by
  unfold acceptUncue
  dsimp only
  split <;> rfl

theorem acceptUncue_idle {w : Work} (none : w.lane.follower.state = .none) : acceptUncue w = w := if_pos none

theorem acceptUncue_lane {w : Work} (cued : w.lane.follower.state ≠ .none) :
    (acceptUncue w).lane = { w.lane with follower :=
      { w.lane.follower with
        state := .none, cue := none, buffer := [], seek := none, missRun := 0, cursor := 0,
        fetch := w.lane.follower.fetch.map fun f => { f with overtaken := true } } } :=
  congrArg Work.lane (if_neg cued)

end

/-- Settles O45. -/
theorem uncueDropsTheCue : Obligations.UncueDropsTheCue := by
  intro slot lane check w l s D ws right x
  obtain ⟨t, ended, C⟩ := lane_directive_carried (i := .uncue slot lane check) rfl D.slotOk D
    ⟨DirectiveKind.noConfusion, DirectiveKind.noConfusion⟩ (Nat.zero_le _) right (laneWord_field lane)
  obtain ⟨recorded, lanes, -, quiet⟩ := Carried.accepted (f := fun _ w => acceptUncue w) C
  refine ⟨t, ended, recorded, quiet (acceptUncue_out _), fun none => lanes.trans ?_, fun cued => lanes.trans ?_⟩
  · exact (congrArg (fun v : Work => s.lanes.set l v.lane) (acceptUncue_idle none)).trans (Quad.set_get _ _)
  · exact congrArg (s.lanes.set l) (acceptUncue_lane cued)

/-! ## FLUSH (R98) -/

/-- The lane after a FLUSH: queues and lists emptied and counted, the screen cleared, the follower not LOCKED. -/
def Lane.flushed (x : Lane) : Lane :=
  let tokens := BitVec.ofNat 32 (tokenCount x.composer.emission)
  let held := BitVec.ofNat 32 x.hold.queue.length
  { x with
    hold := { x.hold with
      queue := [],
      counters := { x.hold.counters with
        held := x.hold.counters.held - held, queued := x.hold.counters.queued - tokens,
        discFlush := x.hold.counters.discFlush + (held + tokens),
        standbyDiscarded := x.hold.counters.standbyDiscarded + BitVec.ofNat 32 x.pens.standby.length } },
    composer := { x.composer with emission := [], rows := .empty, eraseDebt := 0, pendingClear := true },
    pens := { x.pens with standby := [] },
    recent := { a := [], b := [] },
    tracker := { x.tracker with onsets := [], hardAlign := true, startPending := true },
    follower := { x.follower with
      state := if x.follower.state = .locked then .cued else x.follower.state,
      missRun := 0, seek := none } }

theorem flushLane_lane (c : LaneCtx) (w : Work) : (flushLane c w).lane = w.lane.flushed := by
  have tokens : BitVec.ofNat 32 w.lane.queuedTokens = BitVec.ofNat 32 w.lane.hold.queue.length +
      BitVec.ofNat 32 (tokenCount w.lane.composer.emission) := BitVec.ofNat_add _ _
  unfold flushLane Lane.flushed
  dsimp only
  rw [unlockFollower_lane, ← tokens]
  rfl

theorem unlockFollower_out {c : LaneCtx} {cause : ScriptCause} {w : Work} (not_locked : w.lane.follower.state ≠ .locked) :
    (unlockFollower c cause w).out = w.out := by
  unfold unlockFollower
  dsimp only
  rw [if_neg not_locked]
  rfl

/-- Settles O48. -/
theorem flushEmptiesTheLane : Obligations.FlushEmptiesTheLane := by
  intro slot lane check w l s D ws right x tokens held
  obtain ⟨t, ended, C⟩ := lane_directive_carried (i := .flush slot lane check) rfl D.slotOk D
    ⟨DirectiveKind.noConfusion, DirectiveKind.noConfusion⟩ (Nat.zero_le _) right (laneWord_field lane)
  obtain ⟨recorded, lanes, -, quiet⟩ := Carried.accepted (f := flushLane) C
  refine ⟨t, ended, recorded, fun not_locked => quiet (unlockFollower_out not_locked), lanes.trans ?_⟩
  exact congrArg (s.lanes.set l) (flushLane_lane _ _)

/-! ## LINK (R162) -/

/-- The mode that a LINK's code names (Table 12-2); 3 names none. -/
def linkMode (mode : BitVec 2) : LinkMode := if mode = 0 then .none else if mode = 1 then .soft else .hard

theorem linkModeOf_code : ∀ mode : BitVec 2, linkModeOf mode.toNat = if mode = 3 then none else some (linkMode mode) := by
  decide

/-- The state of a lane that takes a hold of a mode. -/
def LinkMode.held : LinkMode → LaneState
  | .none => .run
  | .soft => .softHeld
  | .hard => .hardHeld

theorem afterLink_link (x : Lane) (mode : LinkMode) (now : Field) : (x.afterLink mode now).link = mode := by
  unfold Lane.afterLink
  dsimp only
  split <;> rfl

theorem afterLink_state {x : Lane} (accord : x.hold.state = x.link.held) (mode : LinkMode) (now : Field) :
    (x.afterLink mode now).hold.state = mode.held := by
  unfold Lane.afterLink
  dsimp only
  split <;> rename_i link <;> first | rfl | exact accord.trans (congrArg LinkMode.held link)

theorem acceptLink_aside {mode : LinkMode} {c : LaneCtx} {w : Work}
    (h : w.lane.hold.state = .off ∨ c.overrideOn = false) :
    acceptLink mode c w = { w with lane := { w.lane with link := mode } } := by
  unfold acceptLink
  dsimp only
  refine if_pos ?_
  rcases h with off | no_override
  · simp [off]
  · simp [no_override]

theorem acceptLink_held {mode : LinkMode} {c : LaneCtx} {w : Work} (on : w.lane.hold.state ≠ .off)
    (override : c.overrideOn = true) : (acceptLink mode c w).lane = w.lane.afterLink mode c.now := by
  rw [acceptLink_lane]
  exact if_neg (by simp [on, override])

theorem acceptLink_link {mode : LinkMode} {c : LaneCtx} (w : Work) : (acceptLink mode c w).lane.link = mode := by
  rw [acceptLink_lane]
  split
  · rfl
  · exact afterLink_link _ _ _

/-- Settles O46. -/
theorem linkSetsTheMode : Obligations.LinkSetsTheMode := by
  intro slot lane mode check w l s D ws right x m
  obtain ⟨t, ended, C⟩ := lane_directive_carried (i := .link slot lane mode check) rfl D.slotOk D
    ⟨DirectiveKind.noConfusion, DirectiveKind.noConfusion⟩ (Nat.zero_le _) right (laneWord_field lane)
  have code : linkModeOf (field (wordAt (burstRecord slot ws s).words 3) 0 2) =
      if mode = 3 then none else some m := by
    rw [burst_word slot ws s (by decide), directiveWords_3, linkWord_field]
    exact linkModeOf_code mode
  have processed : laneDirective .link (burstRecord slot ws s).words l (grantedBurst w slot s) =
      match if mode = 3 then none else some m with
      | some m => acceptState (runLane l (acceptLink m) (grantedBurst w slot s))
      | none => refuseWith 2 (grantedBurst w slot s) := by
    rw [← code]
    rfl
  rw [processed] at C
  refine ⟨t, ended, fun three => ?_, fun other => ?_⟩
  · rw [if_pos three] at C
    exact C.untouched
  · rw [if_neg other] at C
    obtain ⟨recorded, lanes, -, quiet⟩ := Carried.accepted (f := acceptLink m) C
    have here : t.lanes.get l = (acceptLink m (s.laneCtx l) { lane := x, out := [] }).lane := by
      rw [lanes]
      exact Quad.get_set_same _ _ _
    refine ⟨recorded, here ▸ acceptLink_link _, fun n apart => ?_, fun aside => ?_, fun on override => ?_,
      fun on override H => ?_⟩
    · rw [lanes]
      exact Quad.get_set_other _ _ apart
    · have set := acceptLink_aside (mode := m) (c := s.laneCtx l) (w := { lane := x, out := [] }) aside
      exact ⟨lanes.trans (congrArg (fun v : Work => s.lanes.set l v.lane) set), quiet (congrArg Work.out set)⟩
    · exact here.trans (acceptLink_held on override)
    · have accord : x.hold.state = x.link.held := by
        have state := H.lane l on
        rw [override] at state
        exact state
      rw [here, acceptLink_held (c := s.laneCtx l) (w := { lane := x, out := [] }) on override]
      exact afterLink_state accord m _

/-! ## RESTORE (R56) -/

theorem directiveSlot_burst {k : DirectiveKind} {b : Bool} {w1 w3 : Word} {xs : List Word}
    {check : Half} (slot : Nat) (s : State) (bit : bitOf w1 8 = b) :
    directiveSlot (burstRecord slot (directiveWords k w1 w3 xs check) s).words = if b then .b else .a := by
  unfold directiveSlot
  rw [burst_word slot _ s (by decide), directiveWords_1, bit]

/-- R56: the slot with its faults cleared. -/
def Work.cleared (w : Work) (k : SlotId) : Work := w.setSlot k { w.slot k with fault := 0, keepRun := 0 }

theorem cleared_slot (w : Work) (k : SlotId) :
    (w.cleared k).slot k = { w.slot k with fault := 0, keepRun := 0 } :=
  Pair.get_set_same _ _ _

theorem acceptRestore_good {c : LaneCtx} {k : SlotId} {w : Work} (good : (w.slot k).health = .good) :
    acceptRestore c k w = w.cleared k := if_pos good

theorem acceptRestore_failing {c : LaneCtx} {k : SlotId} {w : Work} (failing : (w.slot k).health ≠ .good) :
    acceptRestore c k w = failover c (reportHealth c k (w.slot k).health .restore (w.cleared k)) := if_neg failing

/-- R54: the PEN-HEALTH report of a RESTORE. -/
theorem reportHealth_restored {c : LaneCtx} {k : SlotId} {w : Work} (failing : (w.slot k).health ≠ .good) :
    reportHealth c k (w.slot k).health .restore (w.cleared k) =
      { w.cleared k with out := w.out ++ [.report
        { cause := .penHealth, lane := .lane c.id, ringSlot := none, field := c.now,
          detail := [codeItem (slotCode (some k)), .half (w.slot k).pen, codeItem (w.slot k).health.code,
            codeItem Health.good.code, codeItem 0, codeItem 3] }] } := by
  have changed : ((w.cleared k).slot k).health ≠ (w.slot k).health := by
    rw [cleared_slot]
    exact failing.symm
  unfold reportHealth
  dsimp only
  rw [if_neg changed, cleared_slot]
  rfl

theorem acceptRestore_fault (c : LaneCtx) (k : SlotId) (w : Work) :
    ((acceptRestore c k w).lane.pens.slots.get k).fault = 0 := by
  have now : ((w.cleared k).lane.pens.slots.get k).fault = 0 := congrArg PenSlot.fault (cleared_slot w k)
  by_cases good : (w.slot k).health = .good
  · rw [acceptRestore_good good]
    exact now
  · rw [acceptRestore_failing good]
    obtain ⟨role, admitted, slot⟩ := failover_sameMarks (c := c)
      (reportHealth c k (w.slot k).health .restore (w.cleared k)) k
    rw [slot, reportHealth_lane]
    exact now

/-- Settles O49. -/
theorem restoreClearsFaults : Obligations.RestoreClearsFaults := by
  refine ⟨?_, fun c k w _ => ?_⟩
  · intro slot lane b check w l s D ws right k x p
    obtain ⟨t, ended, C⟩ := lane_directive_carried (i := .restore slot lane b check) rfl D.slotOk D
      ⟨DirectiveKind.noConfusion, DirectiveKind.noConfusion⟩ (Nat.zero_le _) right (slotWord_lane lane b)
    have here : directiveSlot (burstRecord slot ws s).words = k := directiveSlot_burst slot s (slotWord_slot lane b)
    have processed : laneDirective .restore (burstRecord slot ws s).words l (grantedBurst w slot s) =
        if p.isEmpty then refuseWith 2 (grantedBurst w slot s)
        else acceptState (runLane l (fun c w => acceptRestore c k w) (grantedBurst w slot s)) := by
      unfold laneDirective
      dsimp only
      rw [here]
      rfl
    rw [processed] at C
    refine ⟨t, ended, fun empty => ?_, fun used => ?_⟩
    · rw [if_pos (show p.isEmpty = true from beq_iff_eq.2 empty)] at C
      exact C.untouched
    · rw [if_neg (show ¬ p.isEmpty = true from fun empty => used (beq_iff_eq.1 empty))] at C
      obtain ⟨recorded, lanes, -, quiet⟩ := Carried.accepted (f := fun c w => acceptRestore c k w) C
      have fault : ((t.lanes.get l).pens.slots.get k).fault = 0 := by
        rw [lanes, Quad.get_set_same]
        exact acceptRestore_fault _ _ _
      refine ⟨recorded, lanes, fault, congrArg healthOf fault, fun good => quiet ?_⟩
      exact congrArg Work.out (acceptRestore_good (c := s.laneCtx l) (w := { lane := x, out := [] }) good)
  · refine ⟨acceptRestore_good, fun failing => ?_⟩
    rw [acceptRestore_failing failing, reportHealth_restored failing]
    rfl

/-! ## PEN-SET (R51) -/

/-- What a PEN-SET finds in its slot, with no admitted arrival when its pen is another. -/
def penSetOld (q : PenSetAsk) (p : PenSlot) : PenSlot :=
  { p with lastAdmitted := if q.pen = p.pen then p.lastAdmitted else none }

/-- The lane with a pen slot set, and the recent list of its slot emptied when the pen is another. -/
def Lane.repenned (x : Lane) (q : PenSetAsk) (p : PenSlot) (floor : FloorState) (standby : List StandbyEntry)
    (counters : Counters) : Lane :=
  { x with
    pens := { x.pens with slots := x.pens.slots.set q.slot p, floor := floor, standby := standby },
    hold := { x.hold with counters := counters },
    recent := if q.pen = (x.pens.slots.get q.slot).pen then x.recent else x.recent.set q.slot [] }

theorem penSetClear_lane (q : PenSetAsk) (w : Work) : ∃ standby counters,
    (penSetClear q w).lane = w.lane.repenned q (penSetOld q (w.slot q.slot)) w.lane.pens.floor standby counters := by
  refine ⟨(penSetClear q w).lane.pens.standby, (penSetClear q w).lane.hold.counters, ?_⟩
  unfold Lane.repenned penSetClear
  dsimp only
  by_cases same : q.pen = (w.slot q.slot).pen
  · have unchanged : ¬ (q.pen != (w.slot q.slot).pen) = true := by simpa using same
    have recent : q.pen = (w.lane.pens.slots.get q.slot).pen := same
    have old : penSetOld q (w.slot q.slot) = w.slot q.slot := by
      unfold penSetOld
      rw [if_pos same]
    have slots : w.lane.pens.slots.set q.slot (w.slot q.slot) = w.lane.pens.slots := Pair.set_get _ _
    rw [if_neg unchanged, old, slots, if_pos recent]
    rfl
  · have changed : (q.pen != (w.slot q.slot).pen) = true := by simpa using same
    have recent : q.pen ≠ (w.lane.pens.slots.get q.slot).pen := same
    have old : penSetOld q (w.slot q.slot) = { w.slot q.slot with lastAdmitted := none } := by
      unfold penSetOld
      rw [if_neg same]
    rw [if_pos changed, old, if_neg recent]
    rfl

/-- R51: an accepted PEN-SET but for the report of a change of health. -/
theorem penSetFill_lane (c : LaneCtx) (q : PenSetAsk) (w : Work) : ∃ floor standby counters,
    (penSetFill c q w).lane =
      w.lane.repenned q (penSetSlot c q (penSetOld q (w.slot q.slot))) floor standby counters := by
  obtain ⟨standby, counters, clear⟩ := penSetClear_lane q w
  have old : (penSetClear q w).slot q.slot = penSetOld q (w.slot q.slot) := by
    unfold Work.slot
    rw [clear]
    exact Pair.get_set_same _ _ _
  have filled (p : PenSlot) : ((penSetClear q w).setSlot q.slot p).lane =
      w.lane.repenned q p w.lane.pens.floor standby counters := by
    unfold Work.setSlot Work.setPens
    dsimp only
    rw [clear]
    unfold Lane.repenned
    dsimp only
    rw [Pair.set_set]
  unfold penSetFill
  dsimp only
  rw [old]
  split
  · refine ⟨.steady, standby, counters, ?_⟩
    unfold Work.setPens
    dsimp only
    rw [filled]
    rfl
  · exact ⟨_, standby, counters, filled _⟩

theorem penSetFill_out (c : LaneCtx) (q : PenSetAsk) (w : Work) : (penSetFill c q w).out = w.out := by
  have clear : (penSetClear q w).out = w.out := by
    unfold penSetClear
    dsimp only
    split <;> rfl
  refine Eq.trans ?_ clear
  unfold penSetFill
  dsimp only
  split <;> rfl

/-- R51, R54: a PEN-SET over a pen of health GOOD changes no health. -/
theorem acceptPenSet_good {c : LaneCtx} {q : PenSetAsk} {w : Work} (good : (w.slot q.slot).health = .good) :
    acceptPenSet c q w = penSetFill c q w := by
  rw [acceptPenSet_eq]
  refine if_pos (Eq.trans ?_ good.symm)
  have fault := (penSetFill_filled (c := c) q w).fault q.slot
  rw [if_pos rfl] at fault
  exact congrArg healthOf fault

theorem readPenSet_burst (slot : Nat) (lane : BitVec 8) (b floor : Bool) (pen check : Half) (s : State) :
    readPenSet (burstRecord slot (directiveWords .penSet (mkWord [lane.toNat, place (bit b) 8, place (bit floor) 9])
      (mkWord [pen.toNat]) [] check) s).words = { slot := if b then .b else .a, pen := pen, floor := floor } := by
  unfold readPenSet
  rw [directiveSlot_burst slot s (penSetWord_slot lane b floor), burst_word slot _ s (by decide),
    burst_word slot _ s (by decide), directiveWords_1, directiveWords_3, penSetWord_role, lowHalf_mkWord]

theorem penSetBusy_iff (p : Pens) (q : PenSetAsk) : penSetBusy p q = true ↔
    ((p.slots.get q.slot).role = .floor ∧ q.pen ≠ (p.slots.get q.slot).pen) ∨
      ((p.slots.get q.slot).role = .floor ∧ q.pen ≠ 0 ∧ q.floor = false) ∨
      (q.pen ≠ 0 ∧ q.floor = true ∧ (p.slots.get (otherSlot q.slot)).role = .floor) := by
  unfold penSetBusy
  simp [and_assoc, or_assoc]

theorem penSetTaken_false {p : Pens} {q : PenSetAsk} (h : q.pen = 0 ∨ (p.slots.get (otherSlot q.slot)).pen ≠ q.pen) :
    penSetTaken p q = false := by
  unfold penSetTaken
  rcases h with zero | other
  · simp [zero]
  · simp [other]

/-- Settles O43. -/
theorem penSetFillsTheSlot : Obligations.PenSetFillsTheSlot := by
  intro slot lane b floor pen check w l s D ws right k x p o busy
  let q : PenSetAsk := { slot := k, pen := pen, floor := floor }
  obtain ⟨t, ended, C⟩ := lane_directive_carried (i := .penSet slot lane b floor pen check) rfl D.slotOk D
    ⟨DirectiveKind.noConfusion, DirectiveKind.noConfusion⟩ (Nat.zero_le _) right (penSetWord_lane lane b floor)
  have asked : readPenSet (burstRecord slot ws s).words = q := readPenSet_burst slot lane b floor pen check s
  have processed : laneDirective .penSet (burstRecord slot ws s).words l (grantedBurst w slot s) =
      if penSetBusy x.pens q then refuseWith 3 (grantedBurst w slot s)
      else if penSetTaken x.pens q then refuseWith 2 (grantedBurst w slot s)
      else acceptState (runLane l (fun c w => acceptPenSet c q w) (grantedBurst w slot s)) := by
    rw [← asked]
    rfl
  rw [processed] at C
  have isBusy : penSetBusy x.pens q = true ↔ busy := penSetBusy_iff x.pens q
  refine ⟨t, ended, fun held => ?_, fun free new _ good => ?_⟩
  · rw [if_pos (isBusy.2 held)] at C
    exact C.untouched
  · rw [if_neg fun held => free (isBusy.1 held),
      if_neg (Bool.eq_false_iff.1 (penSetTaken_false (p := x.pens) (q := q) new))] at C
    obtain ⟨recorded, lanes, -, quiet⟩ := Carried.accepted (f := fun c w => acceptPenSet c q w) C
    let before : Work := { lane := x, out := [] }
    have fill : laneWork l (fun c w => acceptPenSet c q w) s = penSetFill (s.laneCtx l) q before :=
      acceptPenSet_good (c := s.laneCtx l) (q := q) (w := before) good
    have F := penSetFill_filled (c := s.laneCtx l) q before
    obtain ⟨floorNow, standby, counters, filled⟩ := penSetFill_lane (s.laneCtx l) q before
    have here : t.lanes.get l = (penSetFill (s.laneCtx l) q before).lane := by
      rw [lanes, Quad.get_set_same, fill]
    have there : t.lanes.get l =
        x.repenned q (penSetSlot (s.laneCtx l) q (penSetOld q p)) floorNow standby counters := here.trans filled
    have slots : (t.lanes.get l).pens.slots = x.pens.slots.set k (penSetSlot (s.laneCtx l) q (penSetOld q p)) := by
      rw [there]
      rfl
    refine ⟨recorded, quiet (by rw [fill]; exact penSetFill_out _ _ _), fun m other => ?_, ?_, fun empty => ?_,
      fun used => ?_, fun used asFloor vacant => ?_, ?_, ?_, ?_, ?_, ?_, ?_, ?_⟩
    · rw [lanes]
      exact Quad.get_set_other _ _ other
    · rw [slots]
      exact otherSlot_get_set _ _ _
    · rw [slots, Pair.get_set_same]
      exact if_pos empty
    · rw [slots, Pair.get_set_same]
      exact if_neg used
    · rw [here, F.floor]
      exact if_pos ⟨used, asFloor, vacant⟩
    all_goals rw [there]; rfl

end Sys2Proof.Machine
end

section
/-!
O41 and O42: a LANE-SET enables its lane or disables it.
-/
namespace Sys2Proof.Machine

/-! ## The parameters (R73, R72, R153, R157) -/

/-- The parameters of a LANE-SET as the part reads them. -/
def paramsRead (enable : Bool) (p : LaneSetFields) : LaneParams :=
  { enable := enable, d := p.d.toNat, lmax := p.lmax.toNat, initial := p.initial.toNat, s := p.s.toNat,
    g := p.g.toNat, q := p.q.toNat, takeWindow := p.takeWindow.toNat, c := p.c.toNat, r := p.r.toNat,
    w := p.w.toNat, stale := p.stale.toNat, corrMarker := markerOf p.corrMarker,
    spkMarker := markerOf p.spkMarker }

/-- Table 11-3: a LANE-SET in range passes its test. -/
theorem LaneSetInRange.ok {p : LaneSetFields} (h : LaneSetInRange p) (enable : Bool) :
    (paramsRead enable p).ok = true := by
  have d := p.d.isLt
  have s := p.s.isLt
  have g := p.g.isLt
  have q := p.q.isLt
  have takeWindow := p.takeWindow.isLt
  have stale := p.stale.isLt
  obtain ⟨d1, lmax, s1, g1, initial, q1, takeWindow1, c, r, w, marker, speaker⟩ := h
  unfold LaneParams.ok inRange charOk paramsRead markerOf
  simp only [Bool.and_eq_true, decide_eq_true_eq]
  refine ⟨⟨⟨⟨⟨⟨⟨⟨⟨⟨⟨⟨⟨⟨?_, lmax⟩, ?_⟩, ?_⟩, ?_⟩, ?_⟩, ?_⟩, c⟩, r⟩, w⟩, ?_⟩, marker.1⟩, marker.2⟩, speaker.1⟩, speaker.2⟩ <;>
    omega

/-- The lane `y` has the parameters `p`, and of `x` the pen slots, the floor, the link mode and the tag counter. -/
structure Lane.Parametered (p : LaneParams) (x y : Lane) : Prop where
  d : y.tracker.d = p.d
  lmax : y.tracker.lmax = p.lmax
  s : y.tracker.s = p.s
  g : y.tracker.g = p.g
  initial : y.tracker.initial = p.initial
  q : y.pens.q = p.q
  takeWindow : y.pens.takeWindow = p.takeWindow
  c : y.composer.c = p.c
  r : y.composer.r = p.r
  w : y.composer.w = p.w
  stale : y.stale = p.stale
  corrMarker : y.composer.corrMarker = p.corrMarker
  spkMarker : y.composer.spkMarker = p.spkMarker
  slots : y.pens.slots = x.pens.slots
  floor : y.pens.floor = x.pens.floor
  link : y.link = x.link
  tagCounter : y.hold.tagCounter = x.hold.tagCounter

section
variable {p : LaneParams} {x y : Lane}

theorem setLaneParams_parametered (p : LaneParams) (w : Work) : w.lane.Parametered p (setLaneParams p w).lane := by
  constructor <;> rfl

/-- The start of a hold keeps the parameters. -/
theorem Lane.Parametered.holdStart (h : x.Parametered p y) : x.Parametered p y.afterHoldStart := by
  unfold Lane.afterHoldStart
  split
  · split
    · exact h
    · exact { h with }
    · exact { h with }
  · exact h

/-- A FLUSH keeps the parameters. -/
theorem Lane.Parametered.flushed (h : x.Parametered p y) : x.Parametered p y.flushed := { h with }

end

/-! ## A lane that was OFF (R88, R81) -/

/-- R88: a lane that was OFF begins afresh. -/
def Lane.begunAfresh (x : Lane) : Lane :=
  { x with
    tracker := { x.tracker with l := x.tracker.initial, hardAlign := true, startPending := true },
    hold := { x.hold with state := .run } }

theorem Lane.Parametered.begunAfresh {p : LaneParams} {x y : Lane} (h : x.Parametered p y) :
    x.Parametered p y.begunAfresh := { h with }

theorem enableLane_lane (c : LaneCtx) (w : Work) : (enableLane c w).lane =
    if c.overrideOn then w.lane.begunAfresh.afterHoldStart else w.lane.begunAfresh := by
  unfold enableLane
  dsimp only
  split
  · rw [holdStart_lane]
    rfl
  · rfl

/-- R156: the start of a hold changes of the tracker the onsets alone. -/
theorem afterHoldStart_tracker (x : Lane) :
    x.afterHoldStart.tracker = { x.tracker with onsets := x.afterHoldStart.tracker.onsets } := by
  unfold Lane.afterHoldStart
  split
  · split <;> rfl
  · rfl

theorem afterHoldStart_state {x : Lane} (run : x.hold.state = .run) : x.afterHoldStart.hold.state = x.link.held := by
  unfold Lane.afterHoldStart
  rw [if_pos run]
  split
  · rename_i none
    rw [run, none]
    rfl
  · rename_i soft
    rw [soft]
    rfl
  · rename_i hard
    rw [hard]
    rfl

/-! ## The accepted LANE-SET -/

theorem acceptLaneSet_enables {p : LaneParams} {c : LaneCtx} {w : Work} (enable : p.enable = true)
    (off : w.lane.hold.state = .off) : acceptLaneSet p c w = enableLane c (setLaneParams p w) := by
  unfold acceptLaneSet
  dsimp only
  rw [if_pos enable]
  exact if_pos off

theorem acceptLaneSet_adjusts {p : LaneParams} {c : LaneCtx} {w : Work} (enable : p.enable = true)
    (on : w.lane.hold.state ≠ .off) : acceptLaneSet p c w = setLaneParams p w := by
  unfold acceptLaneSet
  dsimp only
  rw [if_pos enable]
  exact if_neg on

theorem acceptLaneSet_disables {p : LaneParams} {c : LaneCtx} {w : Work} (disable : p.enable = false) :
    acceptLaneSet p c w = disableLane c (setLaneParams p w) := by
  unfold acceptLaneSet
  dsimp only
  rw [disable]
  rfl

/-- R89: a lane that was disabled. -/
def Lane.disabled (x : Lane) : Lane :=
  { x.flushed with
    hold := { state := .off, queue := [], tagCounter := x.hold.tagCounter, tallyEarly := 0, tallyDiscard := 0,
              counters := .zero } }

theorem disableLane_lane (c : LaneCtx) (w : Work) : (disableLane c w).lane = w.lane.disabled := by
  unfold disableLane
  dsimp only [Work.setHold]
  rw [flushLane_lane]
  rfl

theorem acceptLaneSet_parametered (p : LaneParams) (c : LaneCtx) (w : Work) :
    w.lane.Parametered p (acceptLaneSet p c w).lane := by
  have set := setLaneParams_parametered p w
  cases enable : p.enable
  · rw [acceptLaneSet_disables enable, disableLane_lane]
    exact { set with }
  · by_cases off : w.lane.hold.state = .off
    · rw [acceptLaneSet_enables enable off, enableLane_lane]
      split
      · exact set.begunAfresh.holdStart
      · exact set.begunAfresh
    · rw [acceptLaneSet_adjusts enable off]
      exact set

/-- R88: what a LANE-SET of a lane that was OFF leaves of its tracker and its state. -/
theorem enableLane_begins (c : LaneCtx) (w : Work) :
    (enableLane c w).lane.tracker = { w.lane.tracker with
      onsets := (enableLane c w).lane.tracker.onsets, l := w.lane.tracker.initial, hardAlign := true, startPending := true } ∧
    (enableLane c w).lane.hold.state = if c.overrideOn then w.lane.link.held else .run := by
  rw [enableLane_lane]
  split
  · refine ⟨(afterHoldStart_tracker w.lane.begunAfresh).trans rfl, ?_⟩
    exact afterHoldStart_state (x := w.lane.begunAfresh) rfl
  · exact ⟨rfl, rfl⟩

theorem setLaneParams_rows {p : LaneParams} {w : Work} (r : p.r = w.lane.composer.r) (columns : p.w = w.lane.composer.w) :
    (setLaneParams p w).lane.composer.emission = w.lane.composer.emission ∧
      (setLaneParams p w).lane.composer.rows = w.lane.composer.rows := by
  have same : (if p.r = w.lane.composer.r ∧ p.w = w.lane.composer.w then w.lane.composer else w.lane.composer.emptyRows) =
      w.lane.composer := if_pos ⟨r, columns⟩
  have emission := congrArg Composer.emission same
  have rows := congrArg Composer.rows same
  exact ⟨emission, rows⟩

/-- A LANE-SET in range is accepted. -/
theorem laneSet_accepted {enable : Bool} {slot : Nat} {p : LaneSetFields} {w : Window} {l : LaneId} {s : State}
    (D : Directed slot w p.lane l s) (right : p.check = recordCheck (laneSetWords enable p)) (range : LaneSetInRange p) :
    ∃ t, exec (if enable then .laneSetEnable slot p else .laneSetDisable slot p) s = .next t ∧
      Recorded .command slot w (laneSetWords enable p) directiveAccepted false s t ∧
      t.lanes = s.lanes.set l (laneWork l (acceptLaneSet (paramsRead enable p)) s).lane ∧
      t.unit.softOverride = s.unit.softOverride := by
  obtain ⟨t, ended, C⟩ := laneSet_carried D right
  have read : readLaneSet (burstRecord slot (laneSetWords enable p) s).words = paramsRead enable p :=
    readLaneSet_words slot enable p s
  have accepts : laneDirective .laneSet (burstRecord slot (laneSetWords enable p) s).words l (grantedBurst w slot s) =
      acceptState (runLane l (acceptLaneSet (paramsRead enable p)) (grantedBurst w slot s)) := by
    unfold laneDirective
    dsimp only
    rw [read]
    exact if_pos (range.ok enable)
  rw [accepts] at C
  obtain ⟨recorded, lanes, soft, -⟩ := Carried.accepted C
  exact ⟨t, ended, recorded, lanes, soft⟩

/-- Settles O41. -/
theorem laneSetEnablesALane : Obligations.LaneSetEnablesALane := by
  intro slot p w l s D right range x
  obtain ⟨t, ended, recorded, lanes, soft⟩ := laneSet_accepted D right range
  let before : Work := { lane := x, out := [] }
  have here : t.lanes.get l = (acceptLaneSet (paramsRead true p) (s.laneCtx l) before).lane := by
    rw [lanes]
    exact Quad.get_set_same _ _ _
  have P := acceptLaneSet_parametered (paramsRead true p) (s.laneCtx l) before
  rw [← here] at P
  refine ⟨t, ended, recorded, fun m other => ?_, soft, P.d, P.lmax, P.s, P.g, P.initial, P.q, P.takeWindow, P.c, P.r, P.w,
    P.stale, P.corrMarker, P.spkMarker, P.slots, P.floor, P.link, P.tagCounter, fun off => ?_, fun on => ?_⟩
  · rw [lanes]
    exact Quad.get_set_other _ _ other
  · obtain ⟨tracker, state⟩ := enableLane_begins (s.laneCtx l) (setLaneParams (paramsRead true p) before)
    rw [← acceptLaneSet_enables (p := paramsRead true p) (c := s.laneCtx l) (w := before) rfl off, ← here] at tracker state
    exact ⟨congrArg Tracker.l tracker, congrArg Tracker.hardAlign tracker, congrArg Tracker.startPending tracker, state⟩
  · rw [acceptLaneSet_adjusts rfl on] at here
    refine ⟨?_, ?_, ?_, ?_, ?_, ?_, fun r columns => ?_⟩
    · rw [here]; rfl
    · rw [here]; rfl
    · rw [here]; rfl
    · rw [here]; rfl
    · rw [here]; rfl
    · rw [here]; rfl
    · rw [here]
      exact setLaneParams_rows r columns

/-- Settles O42. -/
theorem laneSetDisablesALane : Obligations.LaneSetDisablesALane := by
  intro slot p w l s D right range x
  obtain ⟨t, ended, recorded, lanes, soft⟩ := laneSet_accepted D right range
  let before : Work := { lane := x, out := [] }
  have here : t.lanes.get l = (setLaneParams (paramsRead false p) before).lane.disabled := by
    rw [lanes, Quad.get_set_same, ← disableLane_lane (s.laneCtx l)]
    exact congrArg Work.lane (acceptLaneSet_disables (p := paramsRead false p) rfl)
  refine ⟨t, ended, recorded, fun m other => ?_, soft, ?_⟩
  · rw [lanes]
    exact Quad.get_set_other _ _ other
  · dsimp only
    rw [here]
    refine ⟨rfl, rfl, rfl, rfl, rfl, rfl, fun k => ?_, rfl, rfl, rfl, rfl, rfl, rfl⟩
    cases k <;> rfl

end Sys2Proof.Machine
end

section
/-!
O44 and O50: a CUE restarts the follower of its lane, and a SNAPSHOT is staged.
-/
namespace Sys2Proof.Machine

/-! ## CUE (R121, R124, R127) -/

/-- The follower after an accepted CUE, with its fetch. -/
def cuedFollower (first count : Nat) (fetch : Option Fetch) : Follower :=
  { state := .cued, cue := some { first := first, count := count }, buffer := [], fetchPoint := first,
    cursor := first, fetch := fetch, seek := none, missRun := 0, skipCount := 0, starvedCount := 0 }

/-- The fetch that a CUE requests: two records of its first eight, or one. -/
def cueFetch (first count : Nat) : Fetch :=
  { first := first, records := min 2 (min 8 count), left := min 8 count - min 2 (min 8 count), overtaken := false }

/-- The lane after an accepted CUE. -/
def Lane.cued (x : Lane) (first count : Nat) (fetch : Option Fetch) : Lane :=
  { x.stripScripts with follower := cuedFollower first count fetch }

/-- R121: an accepted CUE, up to its refill test. -/
theorem acceptCue_eq (c : LaneCtx) (first count : Nat) (w : Work) : acceptCue c first count w =
    refill c { w with lane := w.lane.cued first count w.lane.follower.overtake.fetch } := rfl

/-- R127: a fetch under way is overtaken, and no other is requested. -/
theorem acceptCue_overtakes {c : LaneCtx} {first count : Nat} {w : Work} {f : Fetch}
    (fetching : w.lane.follower.fetch = some f) : acceptCue c first count w =
      { w with lane := w.lane.cued first count (some { f with overtaken := true }) } := by
  have overtaken : w.lane.follower.overtake.fetch = some { f with overtaken := true } := by
    unfold Follower.overtake
    dsimp only
    rw [fetching]
    rfl
  rw [acceptCue_eq, overtaken]
  unfold refill
  dsimp only
  split
  · exact if_neg (by simp [Lane.cued, cuedFollower])
  · rfl

/-- R124: with no fetch under way, the first burst of the cued block is requested. -/
theorem acceptCue_fetches {c : LaneCtx} {first count : Nat} {w : Work} {win : Window}
    (window : c.cueWindow = some win) (some_records : 1 ≤ count) (free : w.lane.follower.fetch = none) :
    acceptCue c first count w =
      { lane := w.lane.cued first count (some (cueFetch first count)),
        out := w.out ++ [.burst (win.base + BitVec.ofNat 28 (32 * first)) (8 * min 2 (min 8 count))] } := by
  have none_yet : w.lane.follower.overtake.fetch = none := by
    unfold Follower.overtake
    dsimp only
    rw [free]
    rfl
  rw [acceptCue_eq, none_yet]
  have due : (((decide ((cuedFollower first count none).state = .cued) ||
      decide ((cuedFollower first count none).state = .locked)) &&
      decide ((cuedFollower first count none).unconsumed ≤ 8)) &&
      decide ((cuedFollower first count none).fetchPoint < first + count)) &&
      decide ((cuedFollower first count none).fetch = none) := by
    simp [cuedFollower, Follower.unconsumed]
    omega
  unfold refill
  dsimp only
  rw [window]
  refine (if_pos due).trans ?_
  have left : ({ first := first, count := count } : Cue).last - (w.lane.cued first count none).follower.fetchPoint =
      count := Nat.add_sub_cancel_left _ _
  rw [left]
  rfl

section
variable {l : LaneId} {f : LaneCtx → Work → Work} {s : State} {addr : Addr} {words : Nat}

theorem runLane_burst (out : (laneWork l f s).out = [.burst addr words]) : runLane l f s =
    enterRequest { requester := .fetch l, addr := addr, xfer := .read words }
      ({ s with freeIndex := s.freeIndex + 1 }.setLane l (laneWork l f s).lane) := by
  unfold runLane finishWork
  rw [show (f (s.laneCtx l) { lane := s.lanes.get l, out := [] }).out = [.burst addr words] from out]
  rfl

/-- A burst of a command that found the part ready has no engine access before it. -/
theorem Ready.engine_free {a : AsmId} {slot : Nat} {w : Window} {s : State} (ready : Ready a slot w s) (r : Requester) :
    (grantedBurst w slot s).requesterBusy r = false := by
  refine Bool.not_eq_true _ ▸ fun busy => ?_
  rcases requesterBusy_iff.1 busy with ⟨q, mem, -⟩ | ⟨m, on, engine⟩
  · have empty : (grantedBurst w slot s).engine.requests = [] := ready.noEntry
    rw [empty] at mem
    exact absurd mem List.not_mem_nil
  · cases on
    exact Owner.noConfusion engine

end

theorem directiveCue_burst {slot : Nat} {lane : BitVec 8} {first : BitVec 12} {count : BitVec 13} {check : Half}
    {w : Window} {l : LaneId} (s : State) (low : 1 ≤ count.toNat) (high : count.toNat ≤ 4096) :
    laneDirective .cue (burstRecord slot (directiveWords .cue (laneWord lane)
        (mkWord [first.toNat, place count.toNat 16]) [] check) s).words l (grantedBurst w slot s) =
      match s.windowOf .cue (some l) with
      | none => refuseWith 4 (grantedBurst w slot s)
      | some win =>
        if win.length < (first.toNat + count.toNat) * 32 then refuseWith 5 (grantedBurst w slot s)
        else acceptState (runLane l (fun c w => acceptCue c first.toNat count.toNat w) (grantedBurst w slot s)) := by
  obtain ⟨begins, records⟩ := cueWord_fields first count
  have range : inRange 1 4096 count.toNat = true := by
    unfold inRange
    simp [low, high]
  unfold laneDirective directiveCue
  dsimp only
  rw [burst_word slot _ s (by decide), directiveWords_3, begins, records, range]
  rfl

/-- Settles O44. -/
theorem cueRestartsTheFollower : Obligations.CueRestartsTheFollower := by
  intro slot lane first count check w l s D ws right low high x
  obtain ⟨t, ended, C⟩ := lane_directive_carried (i := .cue slot lane first count check) rfl D.slotOk D
    ⟨DirectiveKind.noConfusion, DirectiveKind.noConfusion⟩ (Nat.zero_le _) right (laneWord_field lane)
  rw [directiveCue_burst s low high] at C
  refine ⟨t, ended, ?_⟩
  cases window : s.windowOf .cue (some l) with
  | none =>
    rw [window] at C
    exact ⟨C.untouched.1.report, fun _ => C.untouched, fun win no => (nomatch no)⟩
  | some win =>
    rw [window] at C
    dsimp only at C
    by_cases short : win.length < (first.toNat + count.toNat) * 32
    · rw [if_pos short] at C
      refine ⟨C.untouched.1.report, (nomatch ·), fun win' same => ?_⟩
      cases same
      exact ⟨fun _ => C.untouched, fun long => absurd short (Nat.not_lt.2 long)⟩
    · rw [if_neg short] at C
      obtain ⟨recorded, lanes, -, quiet⟩ := Carried.accepted (f := fun c w => acceptCue c first.toNat count.toNat w) C
      let before : Work := { lane := x, out := [] }
      cases fetch : x.follower.fetch with
      | some f =>
        have cued : laneWork l (fun c w => acceptCue c first.toNat count.toNat w) s = _ :=
          acceptCue_overtakes (c := s.laneCtx l) (first := first.toNat) (count := count.toNat) (w := before) fetch
        refine ⟨quiet (congrArg Work.out cued), (nomatch ·), fun win' same => ?_⟩
        cases same
        exact ⟨fun less => absurd less short, fun _ =>
          ⟨recorded, lanes.trans (congrArg (fun v : Work => s.lanes.set l v.lane) cued), (nomatch ·)⟩⟩
      | none =>
        have cued : laneWork l (fun c w => acceptCue c first.toNat count.toNat w) s = _ :=
          acceptCue_fetches (c := s.laneCtx l) (first := first.toNat) (count := count.toNat) (w := before)
            window low fetch
        have burst := runLane_burst (l := l) (f := fun c w => acceptCue c first.toNat count.toNat w)
          (s := grantedBurst w slot s) (congrArg Work.out cued)
        have report : t.report = s.report := by
          refine C.report.trans ?_
          show (runLane l (fun c w => acceptCue c first.toNat count.toNat w) (grantedBurst w slot s)).report = _
          rw [burst, enterRequest_report]
          rfl
        refine ⟨report, (nomatch ·), fun win' same => ?_⟩
        cases same
        refine ⟨fun less => absurd less short, fun _ =>
          ⟨recorded, lanes.trans (congrArg (fun v : Work => s.lanes.set l v.lane) cued), fun _ => ?_⟩⟩
        refine C.entered _ ?_
        show _ ∈ (runLane l (fun c w => acceptCue c first.toNat count.toNat w) (grantedBurst w slot s)).engine.requests
        rw [burst]
        exact mem_enterRequest (D.ready.engine_free (.fetch l))

/-! ## SNAPSHOT (R171, R172) -/

section
variable {r : Report} {s : State} (running : s.unit.partState = .running)
include running

theorem takesReport_running (c : Cause) : s.takesReport c = true := by
  unfold State.takesReport
  rw [running]
  rfl

theorem handReport_dropped (full : 8 ≤ s.report.staging.length) :
    (handReport r s).report = { s.report with dropped := s.report.dropped + 1 } := by
  rw [handReport_full (takesReport_running running _) full]
  rfl

theorem handReport_waits (room : s.report.staging.length < 8) (writing : s.report.phase ≠ .idle) :
    (handReport r s).report = { s.report with staging := s.report.staging ++ [r] } := by
  rw [handReport_staged (takesReport_running running _) room writing]
  rfl

/-- R173: an idle writer takes up the staged report. -/
theorem handReport_idle (room : s.report.staging.length < 8) :
    handReport r s = writerBegin (s.setReport { s.report with staging := s.report.staging ++ [r] }) := by
  unfold handReport
  rw [takesReport_running running, if_pos rfl]
  exact if_pos room

theorem handReport_begun (room : s.report.staging.length < 8) (idle : s.report.phase = .idle) :
    (handReport r s).report = { s.report with staging := s.report.staging ++ [r] }.begun := by
  rw [handReport_idle running room]
  exact writerBegin_report (s := s.setReport { s.report with staging := s.report.staging ++ [r] }) idle

theorem handReport_entered (first : { s.report with staging := s.report.staging ++ [r] }.begun.staging = [r])
    (room : s.report.staging.length < 8) (idle : s.report.phase = .idle) (free : s.requesterBusy .report = false) :
    s.recordWrite s.report.produce 0 r ∈ (handReport r s).engine.requests := by
  rw [handReport_idle running room]
  exact writerBegin_entered (s := s.setReport { s.report with staging := s.report.staging ++ [r] }) idle free first

end

/-- R173 step 1: a single report that has room is begun. -/
theorem begun_room {u : ReportUnit} {r : Report} (room : r.records ≤ u.freeRecords) :
    { u with staging := [r] }.begun = { u with staging := [r], phase := .record 0 } := by
  have kept : dropFull u.freeRecords [r] u.dropped = ([r], u.dropped) := if_neg (Nat.not_lt.2 room)
  show (let d := dropFull u.freeRecords [r] u.dropped
    { u with staging := d.1, dropped := d.2, phase := if d.1.isEmpty then .idle else .record 0 }) = _
  rw [kept]
  rfl

/-- R173 step 1: a single report that has no room is dropped and counted. -/
theorem begun_full {u : ReportUnit} {r : Report} (full : u.freeRecords < r.records) (empty : u.staging = [])
    (idle : u.phase = .idle) : { u with staging := [r] }.begun = { u with dropped := u.dropped + 1 } := by
  have gone : dropFull u.freeRecords [r] u.dropped = ([], u.dropped + 1) := if_pos full
  show (let d := dropFull u.freeRecords [r] u.dropped
    { u with staging := d.1, dropped := d.2, phase := if d.1.isEmpty then .idle else .record 0 }) = _
  rw [gone]
  show { u with staging := [], dropped := u.dropped + 1, phase := .idle } = _
  rw [← empty, ← idle]

/-- Settles O50. -/
theorem snapshotIsStaged : Obligations.SnapshotIsStaged := by
  intro slot lane check w l s D ws right r
  refine ⟨rfl, ?_⟩
  obtain ⟨t, ended, C⟩ := lane_directive_carried (i := .snapshot slot lane check) rfl D.slotOk D
    ⟨DirectiveKind.noConfusion, DirectiveKind.noConfusion⟩ (Nat.zero_le _) right (laneWord_field lane)
  have running : (grantedBurst w slot s).unit.partState = .running := D.ready.running
  have report : t.report = (handReport r (grantedBurst w slot s)).report := C.report
  have lanes : t.lanes = (handReport r (grantedBurst w slot s)).lanes := C.lanes
  rw [handReport_lanes] at lanes
  have begun (room : s.report.staging.length < 8) (idle : s.report.phase = .idle) :
      t.report = { s.report with staging := s.report.staging ++ [r] }.begun :=
    report.trans (handReport_begun running room idle)
  have alone (empty : s.report.staging = []) (idle : s.report.phase = .idle) :
      t.report = { s.report with staging := [r] }.begun := by
    have room : s.report.staging.length < 8 := by
      rw [empty]
      decide
    rw [begun room idle, empty]
    rfl
  refine ⟨t, ended, C.recorded, lanes, fun full => report.trans (handReport_dropped running full),
    fun room writing => report.trans (handReport_waits running room writing), begun,
    fun empty idle free => ?_, fun empty idle full => ?_⟩
  · have single := begun_room (u := s.report) (r := r) free
    refine ⟨(alone empty idle).trans single, C.entered _ ?_⟩
    refine handReport_entered (s := grantedBurst w slot s) running ?_ ?_ idle (D.ready.engine_free .report)
    · show { s.report with staging := s.report.staging ++ [r] }.begun.staging = [r]
      rw [empty]
      exact congrArg ReportUnit.staging single
    · show s.report.staging.length < 8
      rw [empty]
      decide
  · exact (alone empty idle).trans (begun_full full empty idle)

end Sys2Proof.Machine
end

section
/-!
O47: an OVERRIDE starts or ends the holds of the lanes, and the reports of each.
-/
namespace Sys2Proof.Machine

/-! ## The directive (R156) -/

/-- R156: a change of the override keeps the pens, the floor and the link mode. -/
theorem afterHoldStart_fixed (x : Lane) : x.afterHoldStart.pens.slots = x.pens.slots ∧
    x.afterHoldStart.pens.floor = x.pens.floor ∧ x.afterHoldStart.link = x.link := by
  unfold Lane.afterHoldStart
  split
  · split <;> exact ⟨rfl, rfl, rfl⟩
  · exact ⟨rfl, rfl, rfl⟩

theorem afterHoldEnd_fixed (x : Lane) (now : Field) : (x.afterHoldEnd now).pens.slots = x.pens.slots ∧
    (x.afterHoldEnd now).pens.floor = x.pens.floor ∧ (x.afterHoldEnd now).link = x.link := by
  unfold Lane.afterHoldEnd
  split <;> exact ⟨rfl, rfl, rfl⟩

/-- R156: the state with the software override flag set, the override unchanged. -/
theorem acceptOverride_same {on : Bool} {s : State} (same : s.overrideOn = (s.timer.ovr.taken || on)) :
    acceptOverride on s = { s with unit := { s.unit with softOverride := on } } := if_pos same

theorem acceptOverride_lane {on : Bool} {s : State} (change : s.overrideOn ≠ (s.timer.ovr.taken || on)) (l : LaneId) :
    (acceptOverride on s).lanes.get l =
      if (s.timer.ovr.taken || on) then (s.lanes.get l).afterHoldStart else (s.lanes.get l).afterHoldEnd s.timer.f :=
  changeOverride_lane _ change _ l

theorem acceptOverride_fixed (on : Bool) (s : State) (l : LaneId) :
    ((acceptOverride on s).lanes.get l).pens.slots = (s.lanes.get l).pens.slots ∧
      ((acceptOverride on s).lanes.get l).pens.floor = (s.lanes.get l).pens.floor ∧
      ((acceptOverride on s).lanes.get l).link = (s.lanes.get l).link := by
  by_cases same : s.overrideOn = (s.timer.ovr.taken || on)
  · rw [acceptOverride_same same]
    exact ⟨rfl, rfl, rfl⟩
  · rw [acceptOverride_lane same]
    split
    · exact afterHoldStart_fixed _
    · exact afterHoldEnd_fixed _ _

/-! ## The reports of a hold (R163) -/

theorem holdReport_out (c : LaneCtx) (cause : HoldCause) (old : LaneState) (tokens standby : Nat) (w : Work) :
    (holdReport c cause old tokens standby w).out =
      w.out ++ [c.holdEffect cause old w.lane.hold.state w.lane.link tokens standby] := rfl

theorem unlockFollower_effect (c : LaneCtx) (w : Work) :
    (unlockFollower c .hold w).out = w.out ++ c.unlockEffect w.lane.follower := by
  unfold unlockFollower LaneCtx.unlockEffect
  dsimp only
  split
  · rfl
  · exact (List.append_nil _).symm

/-- The members of a list that have `q` are those that have `p`, which implies it, and those left without them. -/
theorem countP_of_imp {α : Type} {p q : α → Bool} (imp : ∀ a, p a = true → q a = true) (as : List α) :
    as.countP q = as.countP p + (as.filter fun a => !p a).countP q := by
  induction as with
  | nil => rfl
  | cons a as ih =>
    cases stale : p a
    · simp [stale, List.countP_cons, ih, Nat.add_assoc]
    · simp [stale, imp a stale, ih, Nat.add_right_comm]

/-- The tokens of a lane's queues. -/
def Lane.tokens (x : Lane) : Nat := x.hold.queue.length + tokenCount x.composer.emission

/-- R159, R163: the stale tokens are those the end of a soft hold takes away. -/
theorem stale_tokens (x : Lane) (now : Field) :
    x.hold.queue.countP (staleTok (now - BitVec.ofNat 32 x.stale)) +
      x.composer.emission.countP (staleEntry (now - BitVec.ofNat 32 x.stale)) =
      x.tokens - (x.afterSoftEnd now).tokens := by
  let th := now - BitVec.ofNat 32 x.stale
  have held : x.hold.queue.length = x.hold.queue.countP (staleTok th) + (x.afterSoftEnd now).hold.queue.length := by
    have parts := countP_of_imp (p := staleTok th) (q := fun _ => true) (fun _ _ => rfl) x.hold.queue
    rwa [List.countP_true] at parts
  have queued : tokenCount x.composer.emission =
      x.composer.emission.countP (staleEntry th) + tokenCount (x.afterSoftEnd now).composer.emission := by
    have parts := countP_of_imp (p := staleEntry th) (q := fun e => e.body.tok?.isSome) (fun e stale => by
      rw [staleEntry_eq, Bool.and_eq_true] at stale
      cases tok : e.body.tok? with
      | none =>
        rw [tok] at stale
        exact absurd stale.2 Bool.false_ne_true
      | some t => rfl) x.composer.emission
    rw [show staleEntry th = _ from funext (staleEntry_eq th)] at parts ⊢
    exact parts
  show x.hold.queue.countP (staleTok th) + x.composer.emission.countP (staleEntry th) = _
  unfold Lane.tokens
  omega

theorem softHoldEnd_out (c : LaneCtx) (cause : HoldCause) (w : Work) : (softHoldEnd c cause w).out = w.out ++
    [c.holdEffect cause w.lane.hold.state .run w.lane.link (w.lane.tokens - (w.lane.afterSoftEnd c.now).tokens) 0] := by
  rw [← stale_tokens]
  rfl

theorem hardHoldStart_out (c : LaneCtx) (cause : HoldCause) (w : Work) :
    let started := c.holdEffect cause w.lane.hold.state .hardHeld w.lane.link w.lane.tokens w.lane.pens.standby.length
    (hardHoldStart c cause w).out = w.out ++
      (if c.scriptFirst then c.unlockEffect w.lane.follower ++ [started]
       else [started] ++ c.unlockEffect w.lane.follower) := by
  intro started
  unfold hardHoldStart
  dsimp only
  split
  · rw [holdReport_out, unlockFollower_effect, unlockFollower_lane, List.append_assoc]
    rfl
  · rw [unlockFollower_effect, holdReport_out, List.append_assoc]
    rfl

/-- Settles O47. -/
theorem overrideHoldsAndReleases : Obligations.OverrideHoldsAndReleases := by
  refine ⟨?_, fun c cause w => ⟨rfl, softHoldEnd_out c cause w, hardHoldStart_out c cause w, rfl⟩⟩
  intro slot on check w s ready slotOk ws right
  obtain ⟨t, ended, C⟩ := directive_carried (i := .override slot on check) rfl slotOk ready (Nat.zero_le _) right
  have value : bitOf (wordAt (burstRecord slot ws s).words 3) 0 = on := by
    rw [burst_word slot ws s (by decide), directiveWords_3]
    exact overrideWord_bit on
  have carried : carryOut .override (burstRecord slot ws s).words (grantedBurst w slot s) =
      acceptState (acceptOverride on (grantedBurst w slot s)) := by
    unfold carryOut
    dsimp only
    rw [value]
  rw [carried] at C
  have lanes : t.lanes = (acceptOverride on (grantedBurst w slot s)).lanes := C.lanes
  have report : t.report = (acceptOverride on (grantedBurst w slot s)).report := C.report
  have soft : t.unit.softOverride = on := by
    refine C.soft.trans ?_
    exact congrArg CommandUnit.softOverride (changeOverride_lineWork _ _ _ _).unit
  have override : t.overrideOn = (s.timer.ovr.taken || on) := by
    unfold State.overrideOn
    rw [C.recorded.timer, soft]
  refine ⟨t, ended, C.recorded, soft, override, fun same => ?_, fun l => ?_, fun before after l => ?_,
    fun before after l => ?_⟩
  · have quiet := acceptOverride_same (s := grantedBurst w slot s) (same.symm.trans override)
    rw [lanes, report, quiet]
    exact ⟨rfl, rfl⟩
  · rw [lanes]
    exact acceptOverride_fixed on _ l
  · have now : (s.timer.ovr.taken || on) = true := override.symm.trans after
    have change : s.overrideOn ≠ (s.timer.ovr.taken || on) := by
      rw [before, now]
      decide
    rw [lanes, acceptOverride_lane (s := grantedBurst w slot s) change]
    exact if_pos now
  · have now : (s.timer.ovr.taken || on) = false := override.symm.trans after
    have change : s.overrideOn ≠ (s.timer.ovr.taken || on) := by
      rw [before, now]
      decide
    rw [lanes, acceptOverride_lane (s := grantedBurst w slot s) change]
    exact if_neg (Bool.eq_false_iff.1 now)

end Sys2Proof.Machine
end
